-- ==== Sys2Proof/Word.lean ====
section
/-!
DEFINITION. The word types of the command port and the plainest arithmetic on mathematical integers that the rules'
pseudocode uses (spec/00_scope.md R20, R21).
-/

namespace Sys2Proof

/-- A 32-bit operand or response word (spec/30_encoding.md R74, R77). -/
abbrev Word := BitVec 32

/-- An 8-bit opcode, or the 8-bit cycle counter (R16, R74). -/
abbrev Byte := BitVec 8

/-- A 40-bit command word, opcode in bits 39:32 and operand in bits 31:0 (R74). -/
abbrev CmdWord := BitVec 40

/-- `floor_div(a, b)` of R21, for `b > 0`: the greatest integer `q` with `q * b <= a`. -/
def floorDiv (a : Int) (b : Nat) : Int := a / (b : Int)

/-- `a >> k` of R21: the arithmetic right shift, `floor_div(a, 2^k)`, rounding toward minus infinity. -/
def shiftRight (a : Int) (k : Nat) : Int := floorDiv a (2 ^ k)

/-- `clamp(x, lo, hi)` of R21. -/
def clamp (x lo hi : Int) : Int := if x < lo then lo else if hi < x then hi else x

end Sys2Proof
end

