-- ==== Sys2Proof/Syntax.lean ====
section
/-!
DEFINITION. The command set as syntax: one constructor per row of spec/opcode_table.json (spec/30_encoding.md R78, R79).
Every command word carries a 32-bit operand (R74), so every constructor does, the commands that ignore it included: no
bit of a word is lost in decoding, and that the bits are ignored is a fact about the meanings (R80).
-/

namespace Sys2Proof

/-- A command. `op` is the operand field `op32`; a reserved command also keeps its opcode. -/
inductive Instr where
  /-- 0x00 NOP (R180). -/
  | nop (op : Word)
  /-- 0x01 CONSTRUCT, operand U32: the sample rate (R150). -/
  | construct (op : Word)
  /-- 0x02 SET_FREQ, operand SQ15.16: a frequency in hertz (R111). -/
  | setFreq (op : Word)
  /-- 0x03 SET_GAIN, operand SQ15.16: a gain (R151). -/
  | setGain (op : Word)
  /-- 0x04 PROCESS (R153). -/
  | process (op : Word)
  /-- 0x05 GET_LAST (R154). -/
  | getLast (op : Word)
  /-- 0x06 GET_PHASE (R106). -/
  | getPhase (op : Word)
  /-- 0x07 RESET_PHASE, operand UQ0.32: a position in one period (R105). -/
  | resetPhase (op : Word)
  /-- 0x08 GET_FREQ (R107). -/
  | getFreq (op : Word)
  /-- 0x09 GET_EVEN (R108). -/
  | getEven (op : Word)
  /-- 0x0A GET_ALT (R109). -/
  | getAlt (op : Word)
  /-- 0x0B TICK (R104). -/
  | tick (op : Word)
  /-- 0x0C LOOKUP, operand PH: a raw phase (R132). -/
  | lookup (op : Word)
  /-- 0x0D GET_STATUS (R181). -/
  | getStatus (op : Word)
  /-- 0x0E GET_GAIN (R155). -/
  | getGain (op : Word)
  /-- 0x0F GET_INC (R110). -/
  | getInc (op : Word)
  /-- 0x10 to 0x1F, reserved (R182). -/
  | reserved10to1F (opc : Byte) (op : Word)
  /-- 0x20 to 0x3F, reserved (R182). -/
  | reserved20to3F (opc : Byte) (op : Word)
  /-- 0x40 to 0x7F, reserved (R182). -/
  | reserved40to7F (opc : Byte) (op : Word)
  /-- 0x80 to 0xFF, reserved (R182). -/
  | reserved80toFF (opc : Byte) (op : Word)
  deriving DecidableEq, Repr

/-- The operand field of a command (R74). -/
def Instr.operand : Instr → Word
  | .nop op => op
  | .construct op => op
  | .setFreq op => op
  | .setGain op => op
  | .process op => op
  | .getLast op => op
  | .getPhase op => op
  | .resetPhase op => op
  | .getFreq op => op
  | .getEven op => op
  | .getAlt op => op
  | .tick op => op
  | .lookup op => op
  | .getStatus op => op
  | .getGain op => op
  | .getInc op => op
  | .reserved10to1F _ op => op
  | .reserved20to3F _ op => op
  | .reserved40to7F _ op => op
  | .reserved80toFF _ op => op

/-- The operand forms of R75. -/
inductive OperandForm where
  | none
  | u32
  | sq15_16
  | uq0_32
  | ph
  deriving DecidableEq, Repr

/-- The operand form of each command (R75). A reserved command ignores its operand (R79), as the form `none` does. -/
def Instr.operandForm : Instr → OperandForm
  | .construct _ => .u32
  | .setFreq _ => .sq15_16
  | .setGain _ => .sq15_16
  | .resetPhase _ => .uq0_32
  | .lookup _ => .ph
  | .nop _ => .none
  | .process _ => .none
  | .getLast _ => .none
  | .getPhase _ => .none
  | .getFreq _ => .none
  | .getEven _ => .none
  | .getAlt _ => .none
  | .tick _ => .none
  | .getStatus _ => .none
  | .getGain _ => .none
  | .getInc _ => .none
  | .reserved10to1F _ _ => .none
  | .reserved20to3F _ _ => .none
  | .reserved40to7F _ _ => .none
  | .reserved80toFF _ _ => .none

/-- Is the command one of the four reserved rows (R79)? -/
def Instr.isReserved : Instr → Bool
  | .reserved10to1F _ _ => true
  | .reserved20to3F _ _ => true
  | .reserved40to7F _ _ => true
  | .reserved80toFF _ _ => true
  | .nop _ => false
  | .construct _ => false
  | .setFreq _ => false
  | .setGain _ => false
  | .process _ => false
  | .getLast _ => false
  | .getPhase _ => false
  | .resetPhase _ => false
  | .getFreq _ => false
  | .getEven _ => false
  | .getAlt _ => false
  | .tick _ => false
  | .lookup _ => false
  | .getStatus _ => false
  | .getGain _ => false
  | .getInc _ => false

end Sys2Proof
end

