-- ==== Sys2Proof/WellFormed.lean ====
section
/-!
DEFINITION. Which terms of `Instr` stand for a command word. Every operand is admitted (an ignored operand bit never makes
a command illegal, spec/30_encoding.md R80); a reserved command's opcode must lie in its row's range (R81).
-/

namespace Sys2Proof

/-- Does `opc` lie in the range `lo` to `hi`? -/
def opcodeIn (lo hi : Nat) (opc : Byte) : Bool := lo ≤ opc.toNat && opc.toNat ≤ hi

/-- The opcode a reserved constructor carries lies in the range its row of the opcode table gives (R79, R81). -/
def Instr.wellFormed : Instr → Bool
  | .reserved10to1F opc _ => opcodeIn 0x10 0x1F opc
  | .reserved20to3F opc _ => opcodeIn 0x20 0x3F opc
  | .reserved40to7F opc _ => opcodeIn 0x40 0x7F opc
  | .reserved80toFF opc _ => opcodeIn 0x80 0xFF opc
  | .nop _ => true
  | .construct _ => true
  | .setFreq _ => true
  | .setGain _ => true
  | .process _ => true
  | .getLast _ => true
  | .getPhase _ => true
  | .resetPhase _ => true
  | .getFreq _ => true
  | .getEven _ => true
  | .getAlt _ => true
  | .tick _ => true
  | .lookup _ => true
  | .getStatus _ => true
  | .getGain _ => true
  | .getInc _ => true

end Sys2Proof
end

