-- ==== Sys2Proof/Decode.lean ====
section
/-!
DEFINITION. From command words to commands and back (spec/30_encoding.md R74, R78, R79, R81, R82). The decoder looks at OPC
alone and is total on 40-bit words; anything longer than 40 bits is no command word and is rejected by name.
-/

namespace Sys2Proof

/-- The opcode field OPC, bits 39:32 (R74). -/
def opcodeField (w : CmdWord) : Byte := w.extractLsb' 32 8

/-- The operand field `op32`, bits 31:0 (R74). -/
def operandField (w : CmdWord) : Word := w.extractLsb' 0 32

/-- The word with the given opcode and operand fields (R74). -/
def commandWord (opc : Byte) (op : Word) : CmdWord := opc ++ op

/-- The command with opcode `opc` and operand `op` (R78, R79). -/
def decodeFields (opc : Byte) (op : Word) : Instr :=
  match opc.toNat with
  | 0x00 => .nop op
  | 0x01 => .construct op
  | 0x02 => .setFreq op
  | 0x03 => .setGain op
  | 0x04 => .process op
  | 0x05 => .getLast op
  | 0x06 => .getPhase op
  | 0x07 => .resetPhase op
  | 0x08 => .getFreq op
  | 0x09 => .getEven op
  | 0x0A => .getAlt op
  | 0x0B => .tick op
  | 0x0C => .lookup op
  | 0x0D => .getStatus op
  | 0x0E => .getGain op
  | 0x0F => .getInc op
  | n =>
    if n < 0x20 then .reserved10to1F opc op
    else if n < 0x40 then .reserved20to3F opc op
    else if n < 0x80 then .reserved40to7F opc op
    else .reserved80toFF opc op

/-- The command a 40-bit word spells: the decoder is total (R81). -/
def decode (w : CmdWord) : Instr := decodeFields (opcodeField w) (operandField w)

/-- Why a string of bits is no command word. -/
inductive DecodeReject where
  /-- A bit at or above bit 40 is set: every command word is 40 bits long, and there is no other length (R74, R82). -/
  | longerThanFortyBits
  deriving DecidableEq, Repr

/-- Decoding bits given as a number, bit 0 the least significant (R20, log entry 16). -/
def decodeBits (w : Nat) : Except DecodeReject Instr :=
  if w < 2 ^ 40 then .ok (decode (BitVec.ofNat 40 w)) else .error .longerThanFortyBits

/-- The instruction the decoder reads from the opcode table's bits `w`, those at and above `nbits` being 0. The word is
one unit, so the table's numbering is the word's own (R59: byte order does not arise). -/
def decodeTableWord (nbits w : Nat) : Option Instr :=
  match decodeBits (w % 2 ^ nbits) with
  | .ok i => some i
  | .error _ => none

/-- The opcode of a command (R78); a reserved command carries its own. -/
def Instr.opcode : Instr → Byte
  | .nop _ => 0x00
  | .construct _ => 0x01
  | .setFreq _ => 0x02
  | .setGain _ => 0x03
  | .process _ => 0x04
  | .getLast _ => 0x05
  | .getPhase _ => 0x06
  | .resetPhase _ => 0x07
  | .getFreq _ => 0x08
  | .getEven _ => 0x09
  | .getAlt _ => 0x0A
  | .tick _ => 0x0B
  | .lookup _ => 0x0C
  | .getStatus _ => 0x0D
  | .getGain _ => 0x0E
  | .getInc _ => 0x0F
  | .reserved10to1F opc _ => opc
  | .reserved20to3F opc _ => opc
  | .reserved40to7F opc _ => opc
  | .reserved80toFF opc _ => opc

/-- The word of a command (R74, R78). -/
def encode (i : Instr) : CmdWord := commandWord i.opcode i.operand

/-- A row of the opcode table: the words `w` with `w AND mask = pattern` (R81). -/
structure TableRow where
  pattern : CmdWord
  mask : CmdWord
  deriving DecidableEq, Repr

/-- The row of a command whose opcode is fixed: mask FF_00000000 (R81). -/
def TableRow.fixed (opc : Byte) : TableRow := ⟨commandWord opc 0, commandWord 0xFF 0⟩

/-- The twenty rows, in the order of spec/opcode_table.json (R81). -/
def opcodeTable : List TableRow :=
  [.fixed 0x00, .fixed 0x01, .fixed 0x02, .fixed 0x03, .fixed 0x04, .fixed 0x05, .fixed 0x06, .fixed 0x07,
   .fixed 0x08, .fixed 0x09, .fixed 0x0A, .fixed 0x0B, .fixed 0x0C, .fixed 0x0D, .fixed 0x0E, .fixed 0x0F,
   ⟨commandWord 0x10 0, commandWord 0xF0 0⟩, ⟨commandWord 0x20 0, commandWord 0xE0 0⟩,
   ⟨commandWord 0x40 0, commandWord 0xC0 0⟩, ⟨commandWord 0x80 0, commandWord 0x80 0⟩]

/-- The place of a command's row in the opcode table. -/
def Instr.rowIndex : Instr → Nat
  | .nop _ => 0
  | .construct _ => 1
  | .setFreq _ => 2
  | .setGain _ => 3
  | .process _ => 4
  | .getLast _ => 5
  | .getPhase _ => 6
  | .resetPhase _ => 7
  | .getFreq _ => 8
  | .getEven _ => 9
  | .getAlt _ => 10
  | .tick _ => 11
  | .lookup _ => 12
  | .getStatus _ => 13
  | .getGain _ => 14
  | .getInc _ => 15
  | .reserved10to1F _ _ => 16
  | .reserved20to3F _ _ => 17
  | .reserved40to7F _ _ => 18
  | .reserved80toFF _ _ => 19

end Sys2Proof
end

