-- ==== Sys2Proof/Config.lean ====
section
/-!
DEFINITION. The elaboration-time parameters of the block (spec/00_scope.md section 3) and the constants the rules derive
from them. An out-of-range configuration is refused: it is not this hardware (spec/93_implementation_defined.md I8), so
`Config` pairs the raw parameters with the proof that they are legal.
-/

namespace Sys2Proof

/-- The raw parameters of an implementation, legal or not. -/
structure Params where
  /-- `PHASE_BITS`, written W (R9): the width of PHASE and INC. -/
  phaseBits : Nat
  /-- `TABLE_BITS`, written TB (R10): the wave-table has `2^TB` entries and a guard. -/
  tableBits : Nat
  /-- `SAMPLE_BITS`, written S (R12): the width of a table entry and of a sample. -/
  sampleBits : Nat
  /-- `GAIN_FRAC_BITS`, written GF (R14): the number of fraction bits of GAIN. -/
  gainFracBits : Nat
  /-- `RSP_LATENCY` (R17): clock cycles from the acceptance of a command to its response. -/
  rspLatency : Nat
  deriving DecidableEq, Repr

/-- The legal ranges of R9, R10, R12, R14 and R17. -/
abbrev Params.Legal (p : Params) : Prop :=
  1 ≤ p.tableBits ∧ p.tableBits ≤ 16 ∧ p.tableBits < p.phaseBits ∧ p.phaseBits ≤ 32 ∧
    2 ≤ p.sampleBits ∧ p.sampleBits ≤ 32 ∧ 1 ≤ p.gainFracBits ∧ p.gainFracBits ≤ 16 ∧ 1 ≤ p.rspLatency

/-- A legal configuration: the parameters with the proof that they lie in their ranges. -/
structure Config extends Params where
  legal : toParams.Legal
  deriving DecidableEq, Repr

/-- The check on raw parameters: an out-of-range configuration is refused (I8). -/
def Params.toConfig? (p : Params) : Option Config :=
  if h : p.Legal then some { toParams := p, legal := h } else none

/-- `FRAC_BITS`, written FB: `W - TB` (R11). -/
def Config.fracBits (c : Config) : Nat := c.phaseBits - c.tableBits

/-- The table size `N = 2^TB` (R10). -/
def Config.tableSize (c : Config) : Nat := 2 ^ c.tableBits

/-- `PEAK = 2^(S-1) - 1` (R13). -/
def Config.peak (c : Config) : Nat := 2 ^ (c.sampleBits - 1) - 1

/-- The reference configuration REF (R19). R17 leaves RSP_LATENCY open; DESIGN CHOICE: 1 (log entry 3). -/
def Config.ref : Config where
  phaseBits := 32
  tableBits := 8
  sampleBits := 16
  gainFracBits := 15
  rspLatency := 1
  legal := by decide

/-- The other listed configuration, TB = 12 and S = 16 (R57), REF otherwise. -/
def Config.listed4096 : Config where
  phaseBits := 32
  tableBits := 12
  sampleBits := 16
  gainFracBits := 15
  rspLatency := 1
  legal := by decide

end Sys2Proof
end

