-- ==== Sys2Proof/Machine/State.lean ====
section
/-!
DEFINITION. The state of one voice, as plain data: the registers of spec/10_state.md at the widths the configuration gives
them, the ROM's shared TBL_BUILT bit, the responses the block still owes the host, and what the host does at the clock
edges to come. Reset as in spec/70_reset_and_hazards.md R232.
-/

namespace Sys2Proof.Machine

/-- The registers of one voice (spec/10_state.md R33 to R41, R47). -/
structure Regs (c : Config) where
  /-- PHASE, UQ0.W (R33). -/
  phase : BitVec c.phaseBits
  /-- INC, the phase increment (R34). -/
  inc : BitVec c.phaseBits
  /-- FREQ, SQ15.16, the clamped frequency of the last SET_FREQ (R35). -/
  freq : Word
  /-- FS, the sample rate in hertz (R36). -/
  fs : Word
  /-- CYCLE_COUNT, the number of wraps modulo 256 (R37). -/
  cycleCount : Byte
  /-- WRAP: the most recent tick overflowed (R38). -/
  wrap : Bool
  /-- GAIN, UQ1.GF (R39). -/
  gain : BitVec (c.gainFracBits + 1)
  /-- LAST, the cached sample, S bits signed (R40). -/
  last : BitVec c.sampleBits
  /-- ILL, sticky: a reserved opcode was accepted (R41). -/
  ill : Bool
  deriving DecidableEq, Repr

/-- A response the block owes the host (spec/30_encoding.md R72). While `due` is 1 the word is on `rsp_data` with
`rsp_valid = 1`, and the next rising edge delivers it. -/
structure Response where
  due : Nat
  word : Word
  deriving DecidableEq, Repr

/-- What stands on the command port at one rising edge of `clk` (spec/30_encoding.md R71). `cmdReady` is the block's own
output; how long the block holds it low is implementation-defined and no rule depends on it (R72, I2). DESIGN CHOICE: it is
an unconstrained input of the model (log entry 2). -/
structure PortEdge where
  rst : Bool
  cmdValid : Bool
  cmdReady : Bool
  cmdWord : CmdWord
  deriving DecidableEq, Repr

/-- The state of the machine: one voice and its ports. -/
structure State where
  /-- The elaboration-time parameters (spec/00_scope.md section 3); no step writes them (log entry 5). -/
  cfg : Config
  /-- The voice's registers. -/
  regs : Regs cfg
  /-- TBL_BUILT, one bit per ROM (spec/10_state.md R45, log entry 8). -/
  tblBuilt : Bool
  /-- The responses not delivered yet, oldest first (R72, R231). -/
  inFlight : List Response
  /-- The rising clock edges to come, next first; after the last one the host offers nothing. DESIGN CHOICE (log entry 1). -/
  edges : List PortEdge
  deriving DecidableEq, Repr

/-- The machine has no fault that stops it: "No exceptions/faults are raised by the numeric core" (spec/60_exceptions.md
R201), and the one exceptional event, IllegalCommand, sets ILL and goes on (R200). So the type is empty. -/
inductive Fault where
  deriving DecidableEq, Repr

/-- Why a command would have no meaning in the model. -/
inductive Refusal where
  /-- Raised by an arm of `exec` whose command has no meaning yet; safe. Every command has one, so nothing raises it. -/
  | notModelled (mnemonic : String)
  deriving DecidableEq, Repr

/-- The cause codes of spec/60_exceptions.md R202. The block has no cause register; a code only names the event. -/
inductive Cause where
  | none
  | illegalCommand
  deriving DecidableEq, Repr

/-- Every register at its reset value (R232). -/
def Regs.reset (c : Config) : Regs c where
  phase := 0
  inc := 0
  freq := 0
  fs := 0
  cycleCount := 0
  wrap := false
  gain := 0
  last := 0
  ill := false

/-- The state right after reset of a block elaborated with configuration `c`, with the clock edges `edges` to come:
R232, and no response is owed (`rsp_valid` = 0). -/
def State.resetWith (c : Config) (edges : List PortEdge) : State where
  cfg := c
  regs := Regs.reset c
  tblBuilt := false
  inFlight := []
  edges := edges

/-- The machine right after reset, in the reference configuration (R19; DESIGN CHOICE, log entry 4), with no input yet. -/
def State.reset : State := State.resetWith Config.ref []

end Sys2Proof.Machine
end

