-- ==== Sys2Proof/Machine/Flags.lean ====
section
/-!
DEFINITION. The flags (spec/10_state.md section 3): the wraparound test that sets WRAP, the derived signals EVEN and ALT,
and the STATUS word.
-/

namespace Sys2Proof.Machine

/-- The wraparound test of a tick: `wrapFlag = (phase < increment)`, on the new phase (R102). -/
def wrapTest {n : Nat} (newPhase inc : BitVec n) : Bool := decide (newPhase.toNat < inc.toNat)

/-- `cycleCount += wrapFlag`, modulo 256 (R102). -/
def countWrap (count : Byte) (wrap : Bool) : Byte := if wrap then count + 1 else count

/-- EVEN: `CYCLE_COUNT mod 2 == 0` (R42). -/
def evenFlag (count : Byte) : Bool := decide (count.toNat % 2 = 0)

/-- ALT: bit 1 of CYCLE_COUNT (R43). -/
def altFlag (count : Byte) : Bool := count.getLsbD 1

/-- The STATUS word (spec/44_control.md R181): EVEN in bit 0, ALT in bit 1, WRAP in bit 2, CYCLE_COUNT in bits 15:8, ILL in
bit 16, every other bit 0. -/
def statusWord (count : Byte) (wrap ill : Bool) : Word :=
  (BitVec.ofBool (evenFlag count)).setWidth 32 ||| (BitVec.ofBool (altFlag count)).setWidth 32 <<< 1 |||
    (BitVec.ofBool wrap).setWidth 32 <<< 2 ||| count.setWidth 32 <<< 8 ||| (BitVec.ofBool ill).setWidth 32 <<< 16

end Sys2Proof.Machine
end

