-- ==== Sys2Proof/Machine/Operands.lean ====
section
/-!
DEFINITION. The operand forms (spec/30_encoding.md R75, R76) and the response forms (R77).
-/

namespace Sys2Proof.Machine

/-- Form U32: `zext_32(op32)`, a sample rate in hertz. -/
def operandU32 (op : Word) : Nat := op.toNat

/-- Form SQ15.16: `sext_32(op32)`, a frequency or a gain in units of 2^-16. -/
def operandSQ (op : Word) : Int := op.toInt

/-- Form UQ0.32: `zext_32(op32)`, a position in units of 2^-32 turn. -/
def operandUQ (op : Word) : Nat := op.toNat

/-- Form PH: `op32[W-1:0]`, a raw phase; bits 31:W are ignored. -/
def operandPH (c : Config) (op : Word) : BitVec c.phaseBits := op.setWidth c.phaseBits

/-- Response form `zero`. -/
def responseZero : Word := 0

/-- Response form `sample`: `bits_32(v)`. -/
def responseSample (v : Int) : Word := BitVec.ofInt 32 v

/-- Response form `value`: a register of at most 32 bits, zero-extended. -/
def responseValue {n : Nat} (v : BitVec n) : Word := v.setWidth 32

/-- Response form `freq`: the 32-bit pattern of FREQ. -/
def responseFreq (v : Word) : Word := v

/-- Response form `bit`. -/
def responseBit (b : Bool) : Word := if b then 1 else 0

end Sys2Proof.Machine
end

