-- ==== Sys2Proof/Machine/Sine.lean ====
section
/-!
DEFINITION. The contents of the wave-table ROM (spec/20_memory.md R53, R54), computed by exact integer arithmetic for every
legal configuration. Every table position is a multiple of 1/65536 of a turn, because TB <= 16 (R10). The value taken is
the Taylor polynomial of sin with 12 terms, at an angle with 20 decimals of pi. No `PEAK * sin` lies within 2^-21 of a tie
and the polynomial is far closer than that, so the nearest integer to it is R53's (log entry 7;
proved in Laws/SineTable.lean and Laws/Table.lean).
-/

namespace Sys2Proof.Machine

/-- The whole number nearest below `pi * 10^20`. -/
def piDigits : Nat := 314159265358979323846

/-- The numerator of the first `n + 1` terms of the sine series at `a / b`, over `sineDen b n`. -/
def sineNum (a b : Nat) : Nat → Int
  | 0 => a
  | n + 1 =>
    sineNum a b n * ((2 * n + 2) * (2 * n + 3) * b ^ 2 : Nat) + (-1) ^ (n + 1) * (a ^ (2 * n + 3) : Nat)

/-- The common denominator of those terms, `b^(2n+1) * (2n+1)!`. -/
def sineDen (b n : Nat) : Nat := b ^ (2 * n + 1) * (2 * n + 1).factorial

/-- `peak * sin(2*pi*m/65536)` rounded to the nearest integer, for `m` in the first quarter turn, 0 to 16384. -/
def quarterSample (peak m : Nat) : Int :=
  floorDiv (2 * peak * sineNum (piDigits * m) (32768 * 10 ^ 20) 11 + sineDen (32768 * 10 ^ 20) 11)
    (2 * sineDen (32768 * 10 ^ 20) 11)

/-- `peak * sin(2*pi*j/65536)` rounded to the nearest integer, halves away from zero, for `j` in one turn: the first
quarter and its mirror images. -/
def turnSample (peak j : Nat) : Int :=
  if j < 16384 then quarterSample peak j
  else if j < 32768 then quarterSample peak (32768 - j)
  else if j < 49152 then -quarterSample peak (j - 32768)
  else -quarterSample peak (65536 - j)

/-- Entry `i` of the table (R53), and the guard sample: entry N is entry 0 (R54). -/
def tableEntry (c : Config) (i : Nat) : Int :=
  turnSample c.peak (i % c.tableSize * 2 ^ (16 - c.tableBits))

/-- `ROM[i]`: the S-bit signed entry at address `i`, 0 to N (R50, R58). No other address exists, so none can be named. -/
def romRead (c : Config) (i : Fin (c.tableSize + 1)) : BitVec c.sampleBits := BitVec.ofInt _ (tableEntry c i)

end Sys2Proof.Machine
end

