-- ==== Sys2Proof/Machine/Ops.lean ====
section
/-!
DEFINITION. The shared operations: the arithmetic helpers of spec/41_phase_accumulator.md section 1, spec/42_wavetable.md
section 1 and spec/43_oscillator.md section 1, the one exceptional event (spec/60_exceptions.md R200), the response to a
command, and what one rising clock edge does to the ports (spec/30_encoding.md R72, spec/70_reset_and_hazards.md R230).
-/

namespace Sys2Proof.Machine

/-- `clamp_freq(f_raw, fs)` (R100): the frequency SET_FREQ stores, in units of 2^-16 Hz. (Here and below a large literal
stands first in a product or a sum, so that Lean never unfolds it in unary.) -/
def clampFreq (fRaw : Int) (fs : Nat) : Nat :=
  if fs = 0 then 0
  else if fRaw < 0 then 0
  else if (2 ^ 15 * fs : Nat) ≤ fRaw then 2 ^ 15 * fs - 1
  else fRaw.toNat

/-- `inc_of(fc, fs)` (R101): the phase increment, `round(frequency / sampleRate * 2^W)`, by exact division. -/
def incOf (w fc fs : Nat) : Nat :=
  if fs = 0 then 0 else (fc * 2 ^ (w + 1) + fs * 2 ^ 16) / (fs * 2 ^ 17)

/-- `round(p * 2^W) mod 2^W` for the position `p = pRaw / 2^32` (R105). -/
def resetPosition (w pRaw : Nat) : Nat := (2 ^ 32 + pRaw * 2 ^ (w + 1)) / 2 ^ 33 % 2 ^ w

/-- The gain register's value for the operand `gRaw` (R151): clamped to [0, 1], rounded to GF fraction bits. -/
def quantizeGain (gf : Nat) (gRaw : Int) : Nat :=
  let gc := (clamp gRaw 0 (2 ^ 16)).toNat
  if gf = 16 then gc else (gc + 2 ^ (15 - gf)) / 2 ^ (16 - gf)

/-- `tick_step()` (R102): PHASE, then WRAP from the new PHASE, then CYCLE_COUNT from the new WRAP. -/
def tickStep {c : Config} (r : Regs c) : Regs c :=
  let phase := r.phase + r.inc
  let wrap := wrapTest phase r.inc
  { r with phase := phase, wrap := wrap, cycleCount := countWrap r.cycleCount wrap }

/-- The index field of a phase, its top TB bits: an address below N (R130). -/
def indexField (c : Config) (ph : BitVec c.phaseBits) : Nat := ph.toNat / 2 ^ c.fracBits

/-- The fraction field of a phase, its low FB bits (R130). -/
def fractionField (c : Config) (ph : BitVec c.phaseBits) : Nat := ph.toNat % 2 ^ c.fracBits

theorem indexField_lt (c : Config) (ph : BitVec c.phaseBits) : indexField c ph < c.tableSize := by
  have h : c.tableBits ≤ c.phaseBits := c.legal.2.2.1.le
  have hw : 2 ^ c.fracBits * 2 ^ c.tableBits = 2 ^ c.phaseBits := by
    rw [← pow_add, Config.fracBits, Nat.sub_add_cancel h]
  exact Nat.div_lt_of_lt_mul (hw ▸ ph.isLt)

/-- `ROM[idx]` at a phase: the node at or before it (R131). -/
def nodeBefore (c : Config) (ph : BitVec c.phaseBits) : Int :=
  (romRead c ⟨indexField c ph, Nat.lt_succ_of_lt (indexField_lt c ph)⟩).toInt

/-- `ROM[idx + 1]` at a phase: the node after it, the guard sample for the last index (R131). -/
def nodeAfter (c : Config) (ph : BitVec c.phaseBits) : Int :=
  (romRead c ⟨indexField c ph + 1, Nat.succ_lt_succ (indexField_lt c ph)⟩).toInt

/-- The rounded linear interpolation of R131, exact on unbounded integers, with the arithmetic shift. -/
def interpolate (fb : Nat) (e0 e1 : Int) (fr : Nat) : Int :=
  e0 + shiftRight ((e1 - e0) * fr + 2 ^ (fb - 1)) fb

/-- `lookup(ph)` (R131). -/
def lookup (c : Config) (ph : BitVec c.phaseBits) : Int :=
  interpolate c.fracBits (nodeBefore c ph) (nodeAfter c ph) (fractionField c ph)

/-- `gain_mul(v, gq)` (R152). -/
def gainMul (gf : Nat) (v : Int) (gq : Nat) : Int := shiftRight (v * gq + 2 ^ (gf - 1)) gf

/-- `respond(v)` (R24, R72): the response to the current command, due RSP_LATENCY cycles after its acceptance. -/
def State.respond (s : State) (v : Word) : State := { s with inFlight := s.inFlight ++ [⟨s.cfg.rspLatency, v⟩] }

/-- `raise IllegalCommand()` (R200), the one exceptional event: `ILL <- 1` and nothing else. There is no trap: no state is
saved, no mode changes, no control is transferred, and so there is no return from it (R205, R206). -/
def State.raiseIllegalCommand (s : State) : State := { s with regs := { s.regs with ill := true } }

/-- The event a command raises (R201, R202). -/
def causeOf (i : Instr) : Cause := if i.isReserved then .illegalCommand else .none

/-- The number of a cause (R202). -/
def Cause.code : Cause → Nat
  | .none => 0
  | .illegalCommand => 1

/-- A clock edge at which the host offers nothing. -/
def PortEdge.idle : PortEdge := ⟨false, false, false, 0⟩

/-- A clock edge at which the word `w` is accepted (R72). -/
def PortEdge.command (w : CmdWord) : PortEdge := ⟨false, true, true, w⟩

/-- A clock edge at which reset is asserted (R230). -/
def PortEdge.reset : PortEdge := ⟨true, false, false, 0⟩

/-- Is the offered word accepted at this edge: `cmd_valid = 1`, `cmd_ready = 1` and `rst = 0` (R72)? R230 says the block may
accept "After the first edge with `rst = 0`" and leaves open whether at that edge itself. DESIGN CHOICE: R72 alone decides,
so that edge may accept (log entry 21). -/
def PortEdge.accepts (e : PortEdge) : Bool := e.cmdValid && e.cmdReady && !e.rst

/-- What stands on the port at the next rising edge. -/
def State.nextEdge (s : State) : PortEdge := s.edges.headD PortEdge.idle

/-- The state past that edge's inputs. -/
def State.pastEdge (s : State) : State := { s with edges := s.edges.tail }

/-- The responses still owed after one more clock cycle: the oldest is delivered if it was offered, and every other one is
a cycle nearer (R72: in acceptance order, each offered for one cycle; log entries 3, 17, 18). -/
def clockResponses : List Response → List Response
  | [] => []
  | r :: rs => (if r.due ≤ 1 then rs else r :: rs).map fun q => { q with due := q.due - 1 }

/-- One clock cycle of the response port. -/
def State.clock (s : State) : State := { s with inFlight := clockResponses s.inFlight }

/-- The reset event (R230): every register at its reset value, undelivered responses dropped (R231, log entry 19), ROM untouched. -/
def State.resetEvent (s : State) : State :=
  { s with regs := Regs.reset s.cfg, tblBuilt := false, inFlight := [] }

/-- The `rsp_valid` and `rsp_data` ports: the response offered in this cycle, if any (R71, R72;
log entries 3, 15). -/
def State.offeredResponse (s : State) : Option Word :=
  match s.inFlight with
  | [] => none
  | r :: _ => if r.due ≤ 1 then some r.word else none

/-- The `sample_out` port: the LAST register at all times (R73). -/
def State.sampleOut (s : State) : BitVec s.cfg.sampleBits := s.regs.last

/-- The command word given by the opcode table's bits `w`, the bits at and above `nbits` being 0. -/
def tableCommandWord (nbits w : Nat) : CmdWord := BitVec.ofNat 40 (w % 2 ^ nbits)

end Sys2Proof.Machine
end

