-- ==== Sys2Proof/Machine/Control.lean ====
section
/-!
DEFINITION. The control commands and the reserved opcodes (spec/44_control.md).
-/

namespace Sys2Proof.Machine

/-- NOP (R180). -/
def execNop (s : State) : Host.Outcome State Fault Refusal := .next (s.respond responseZero)

/-- GET_STATUS (R181). -/
def execGetStatus (s : State) : Host.Outcome State Fault Refusal :=
  .next (s.respond (statusWord s.regs.cycleCount s.regs.wrap s.regs.ill))

/-- A reserved opcode, 0x10 to 0x1F (R182). -/
def execReserved10to1F (s : State) : Host.Outcome State Fault Refusal :=
  .next (s.raiseIllegalCommand.respond responseZero)

/-- A reserved opcode, 0x20 to 0x3F (R182). -/
def execReserved20to3F (s : State) : Host.Outcome State Fault Refusal :=
  .next (s.raiseIllegalCommand.respond responseZero)

/-- A reserved opcode, 0x40 to 0x7F (R182). -/
def execReserved40to7F (s : State) : Host.Outcome State Fault Refusal :=
  .next (s.raiseIllegalCommand.respond responseZero)

/-- A reserved opcode, 0x80 to 0xFF (R182). -/
def execReserved80toFF (s : State) : Host.Outcome State Fault Refusal :=
  .next (s.raiseIllegalCommand.respond responseZero)

end Sys2Proof.Machine
end

