-- ==== Sys2Proof/Machine/Oscillator.lean ====
section
/-!
DEFINITION. The oscillator commands (spec/43_oscillator.md).
-/

namespace Sys2Proof.Machine

/-- CONSTRUCT (R150): FS from the operand, every other register of the voice 0, ILL kept, TBL_BUILT set. -/
def execConstruct (op : Word) (s : State) : Host.Outcome State Fault Refusal :=
  let fs := BitVec.ofNat 32 (operandU32 op)
  let regs := { Regs.reset s.cfg with fs := fs, ill := s.regs.ill }
  .next ({ s with regs := regs, tblBuilt := true }.respond responseZero)

/-- SET_GAIN (R151): GAIN only. -/
def execSetGain (op : Word) (s : State) : Host.Outcome State Fault Refusal :=
  let gain := BitVec.ofNat (s.cfg.gainFracBits + 1) (quantizeGain s.cfg.gainFracBits (operandSQ op))
  .next ({ s with regs := { s.regs with gain := gain } }.respond responseZero)

/-- PROCESS (R153): tick, look up at the new phase, scale by GAIN, cache and respond (log entry 13). -/
def execProcess (s : State) : Host.Outcome State Fault Refusal :=
  let r := tickStep s.regs
  let y := gainMul s.cfg.gainFracBits (lookup s.cfg r.phase) r.gain.toNat
  .next ({ s with regs := { r with last := BitVec.ofInt _ y } }.respond (responseSample y))

/-- GET_LAST (R154). -/
def execGetLast (s : State) : Host.Outcome State Fault Refusal :=
  .next (s.respond (responseSample s.regs.last.toInt))

/-- GET_GAIN (R155). -/
def execGetGain (s : State) : Host.Outcome State Fault Refusal := .next (s.respond (responseValue s.regs.gain))

end Sys2Proof.Machine
end

