-- ==== Sys2Proof/Machine/PhaseAccumulator.lean ====
section
/-!
DEFINITION. The phase accumulator commands (spec/41_phase_accumulator.md section 2).
-/

namespace Sys2Proof.Machine

/-- TICK (R104). -/
def execTick (s : State) : Host.Outcome State Fault Refusal :=
  .next ({ s with regs := tickStep s.regs }.respond responseZero)

/-- RESET_PHASE (R105): CYCLE_COUNT is cleared iff the operand, not the rounded phase, is 0. -/
def execResetPhase (op : Word) (s : State) : Host.Outcome State Fault Refusal :=
  let p := operandUQ op
  let phase := BitVec.ofNat s.cfg.phaseBits (resetPosition s.cfg.phaseBits p)
  let count := if p = 0 then 0 else s.regs.cycleCount
  .next ({ s with regs := { s.regs with phase := phase, cycleCount := count } }.respond responseZero)

/-- GET_PHASE (R106). -/
def execGetPhase (s : State) : Host.Outcome State Fault Refusal := .next (s.respond (responseValue s.regs.phase))

/-- GET_FREQ (R107). -/
def execGetFreq (s : State) : Host.Outcome State Fault Refusal := .next (s.respond (responseFreq s.regs.freq))

/-- GET_EVEN (R108). -/
def execGetEven (s : State) : Host.Outcome State Fault Refusal :=
  .next (s.respond (responseBit (evenFlag s.regs.cycleCount)))

/-- GET_ALT (R109). -/
def execGetAlt (s : State) : Host.Outcome State Fault Refusal :=
  .next (s.respond (responseBit (altFlag s.regs.cycleCount)))

/-- GET_INC (R110). -/
def execGetInc (s : State) : Host.Outcome State Fault Refusal := .next (s.respond (responseValue s.regs.inc))

/-- SET_FREQ (R111): FREQ and INC, from the sample rate FS current now. -/
def execSetFreq (op : Word) (s : State) : Host.Outcome State Fault Refusal :=
  let fs := s.regs.fs.toNat
  let fc := clampFreq (operandSQ op) fs
  let inc := BitVec.ofNat s.cfg.phaseBits (incOf s.cfg.phaseBits fc fs)
  .next ({ s with regs := { s.regs with freq := BitVec.ofNat 32 fc, inc := inc } }.respond responseZero)

end Sys2Proof.Machine
end

