-- ==== Sys2Proof/Machine/WaveTable.lean ====
section
/-!
DEFINITION. The wave-table command (spec/42_wavetable.md).
-/

namespace Sys2Proof.Machine

/-- LOOKUP (R132): the interpolated table value at the operand's phase; no register is read or written. -/
def execLookup (op : Word) (s : State) : Host.Outcome State Fault Refusal :=
  .next (s.respond (responseSample (lookup s.cfg (operandPH s.cfg op))))

end Sys2Proof.Machine
end

