-- ==== Sys2Proof/Machine/Dispatch.lean ====
section
/-!
DEFINITION. The dispatch of a command to its meaning (spec/44_control.md R183).
-/

namespace Sys2Proof.Machine

/-- What a command does to a state. -/
def exec (i : Instr) (s : State) : Host.Outcome State Fault Refusal :=
  match i with
  | .nop _ => Sys2Proof.Machine.execNop s
  | .construct op => Sys2Proof.Machine.execConstruct op s
  | .setFreq op => Sys2Proof.Machine.execSetFreq op s
  | .setGain op => Sys2Proof.Machine.execSetGain op s
  | .process _ => Sys2Proof.Machine.execProcess s
  | .getLast _ => Sys2Proof.Machine.execGetLast s
  | .getPhase _ => Sys2Proof.Machine.execGetPhase s
  | .resetPhase op => Sys2Proof.Machine.execResetPhase op s
  | .getFreq _ => Sys2Proof.Machine.execGetFreq s
  | .getEven _ => Sys2Proof.Machine.execGetEven s
  | .getAlt _ => Sys2Proof.Machine.execGetAlt s
  | .tick _ => Sys2Proof.Machine.execTick s
  | .lookup op => Sys2Proof.Machine.execLookup op s
  | .getStatus _ => Sys2Proof.Machine.execGetStatus s
  | .getGain _ => Sys2Proof.Machine.execGetGain s
  | .getInc _ => Sys2Proof.Machine.execGetInc s
  | .reserved10to1F _ _ => Sys2Proof.Machine.execReserved10to1F s
  | .reserved20to3F _ _ => Sys2Proof.Machine.execReserved20to3F s
  | .reserved40to7F _ _ => Sys2Proof.Machine.execReserved40to7F s
  | .reserved80toFF _ _ => Sys2Proof.Machine.execReserved80toFF s

end Sys2Proof.Machine
end

