-- ==== Sys2Proof/Machine/Step.lean ====
section
/-!
DEFINITION. One step: one rising edge of `clk` (spec/30_encoding.md R71, R72; spec/70_reset_and_hazards.md R230). Reset wins
over a command offered at the same edge (spec/60_exceptions.md R204); an accepted command takes its whole effect at its
acceptance edge, as one atomic step (spec/20_memory.md R62); at any other edge the registers keep their values (R212).
Taking one step per clock edge is a DESIGN CHOICE (log entry 1).
-/

namespace Sys2Proof.Machine

/-- One rising clock edge. The first edge with `rst = 0` after a reset is an edge like any other: a command may be accepted
there (DESIGN CHOICE, log entry 21). -/
def step (s : State) : Host.Outcome State Fault Refusal :=
  if s.nextEdge.rst then .next s.pastEdge.resetEvent
  else if s.nextEdge.accepts then exec (decode s.nextEdge.cmdWord) s.pastEdge.clock
  else .next s.pastEdge.clock

/-- The state `s` with the opcode table's word `w` on the command port at the next clock edge, accepted there: a command
does not come from a memory, the host offers it (R70), so this is the host's act (log entry 6). -/
def State.withFetchWord (s : State) (nbits w : Nat) : State :=
  { s with edges := PortEdge.command (tableCommandWord nbits w) :: s.edges }

end Sys2Proof.Machine
end

