-- ==== Sys2Proof/Machine/Assembler.lean ====
section
/-!
DEFINITION. The assembler form of a command (spec/30_encoding.md R86) and the pseudo-instructions (R87), on structured lines:
a mnemonic and an operand value. How the characters of a line are split into these is notation only (log entry 11).
-/

namespace Sys2Proof.Machine

/-- The mnemonics of R78; a reserved opcode has none. -/
inductive Mnemonic where
  | nop
  | construct
  | setFreq
  | setGain
  | process
  | getLast
  | getPhase
  | resetPhase
  | getFreq
  | getEven
  | getAlt
  | tick
  | lookup
  | getStatus
  | getGain
  | getInc
  deriving DecidableEq, Repr

/-- The command a mnemonic names, with operand field `op` (R78). -/
def Mnemonic.command (m : Mnemonic) (op : Word) : Instr :=
  match m with
  | .nop => .nop op
  | .construct => .construct op
  | .setFreq => .setFreq op
  | .setGain => .setGain op
  | .process => .process op
  | .getLast => .getLast op
  | .getPhase => .getPhase op
  | .resetPhase => .resetPhase op
  | .getFreq => .getFreq op
  | .getEven => .getEven op
  | .getAlt => .getAlt op
  | .tick => .tick op
  | .lookup => .lookup op
  | .getStatus => .getStatus op
  | .getGain => .getGain op
  | .getInc => .getInc op

/-- Does the command take an operand in assembler form (R75, R86)? -/
def Mnemonic.takesOperand (m : Mnemonic) : Bool := decide ((m.command 0).operandForm ≠ .none)

/-- An operand literal stands for `bits_32(value)`, and the value must be in [-2^31, 2^32-1] (R86). -/
def literalWord (value : Int) : Option Word :=
  if -(2 ^ 31) ≤ value ∧ value ≤ 2 ^ 32 - 1 then some (BitVec.ofInt 32 value) else none

/-- One assembler line (R86): a command of form `none` takes no operand and encodes `op32 = 0`, every other takes one.
For W < 32 R80 calls LOOKUP's `op32[31:W]` ignored and has the assembler encode ignored bits as 0, where R86 encodes
`bits_32(value)` whole. DESIGN CHOICE: R86 is followed, so LOOKUP's literal keeps those bits (log entry 22). -/
def assemble (m : Mnemonic) (operand : Option Int) : Option Instr :=
  match operand with
  | none => if m.takesOperand then none else some (m.command 0)
  | some value => if m.takesOperand then (literalWord value).map m.command else none

/-- The pseudo-instructions of R87. -/
inductive Pseudo where
  | setFreqHz (n : Int)
  | setGainUnity
  | setGainZero
  | rewind
  | processN (k : Nat)
  | idle
  deriving DecidableEq, Repr

/-- The expansion of a pseudo-instruction, where its condition holds (R87). -/
def Pseudo.expand : Pseudo → Option (List Instr)
  | .setFreqHz n =>
    if -32768 ≤ n ∧ n ≤ 32767 then some [.setFreq (BitVec.ofInt 32 (n * 65536))] else none
  | .setGainUnity => some [.setGain 0x00010000]
  | .setGainZero => some [.setGain 0x00000000]
  | .rewind => some [.resetPhase 0x00000000]
  | .processN k => if 1 ≤ k then some (List.replicate k (.process 0)) else none
  | .idle => some [.nop 0]

end Sys2Proof.Machine
end

