-- ==== Sys2Proof/Machine/Platform.lean ====
section
/-!
DEFINITION. A platform of NUM_VOICES instances that share one wave-table ROM and its TBL_BUILT bit (spec/00_scope.md R18,
spec/60_exceptions.md R213, spec/10_state.md R45, spec/20_memory.md R51, R64). What the voices share stands once, in the
platform; what a voice owns (its registers, its ports) stands in the voice. Each voice has its own reset; the clock edges of
different voices may come in any order, so a platform step names the voice that takes its next edge (log entries 8, 9).
-/

namespace Sys2Proof.Machine

/-- The parameters of a platform: those of its block, so of the one ROM its voices read, and how many voices there are. -/
structure PlatformConfig where
  /-- The one configuration of every voice (R51; log entry 9). -/
  voice : Config
  /-- NUM_VOICES (R18). -/
  numVoices : Nat
  atLeastOne : 1 ≤ numVoices
  deriving DecidableEq, Repr

/-- The check on a number of voices: none at all is refused, "at least 1" (R18). -/
def PlatformConfig.ofNumVoices? (c : Config) (n : Nat) : Option PlatformConfig :=
  if h : 1 ≤ n then some ⟨c, n, h⟩ else none

/-- What one voice owns: its registers, the responses its port still owes, and its port's inputs to come (R213). -/
structure Voice (c : Config) where
  regs : Regs c
  inFlight : List Response
  edges : List PortEdge
  deriving DecidableEq, Repr

/-- A voice as a machine: what it owns, with the platform's configuration and its TBL_BUILT bit. -/
def Voice.asState {c : Config} (v : Voice c) (tblBuilt : Bool) : State where
  cfg := c
  regs := v.regs
  tblBuilt := tblBuilt
  inFlight := v.inFlight
  edges := v.edges

/-- What the voice of a state owns. -/
def State.toVoice {c : Config} : (s : State) → s.cfg = c → Voice c
  | ⟨_, regs, _, inFlight, edges⟩, rfl => ⟨regs, inFlight, edges⟩

/-- The voices of a platform and the one bit they share; the ROM is a constant of `pc.voice`. -/
structure Platform (pc : PlatformConfig) where
  tblBuilt : Bool
  voices : Vector (Voice pc.voice) pc.numVoices
  deriving DecidableEq, Repr

/-- A platform after every voice's reset, with the clock edges to come at each voice's port. -/
def Platform.reset (pc : PlatformConfig) (inputs : Vector (List PortEdge) pc.numVoices) : Platform pc where
  tblBuilt := false
  voices := ⟨(inputs.toList.map fun edges => ⟨Regs.reset pc.voice, [], edges⟩).toArray, by simp⟩

/-- Voice `k` as a machine. -/
def Platform.voice {pc : PlatformConfig} (p : Platform pc) (k : Fin pc.numVoices) : State :=
  p.voices[k].asState p.tblBuilt

/-- No command changes the configuration (spec/20_memory.md R52). -/
theorem exec_cfg {i : Instr} {s t : State} (h : exec i s = .next t) : t.cfg = s.cfg := by
  cases i <;> cases h <;> rfl

/-- No clock edge changes the configuration. -/
theorem step_cfg {s t : State} (h : step s = .next t) : t.cfg = s.cfg := by
  unfold step at h
  split at h
  · cases h; rfl
  · split at h
    · exact (exec_cfg h).trans rfl
    · cases h; rfl

/-- A voice keeps the platform's configuration, so it goes on reading the one ROM. -/
theorem voice_step_cfg {pc : PlatformConfig} {p : Platform pc} {k : Fin pc.numVoices} {t : State}
    (h : step (p.voice k) = .next t) : t.cfg = pc.voice :=
  step_cfg h

/-- Voice `k` takes its next clock edge. -/
def Platform.stepVoice {pc : PlatformConfig} (p : Platform pc) (k : Fin pc.numVoices) :
    Host.Outcome (Platform pc) Fault Refusal :=
  match h : step (p.voice k) with
  | .next t => .next ⟨t.tblBuilt, p.voices.set k (t.toVoice (voice_step_cfg h))⟩
  | .fault f => .fault f
  | .refused r => .refused r

end Sys2Proof.Machine
end

