-- ==== Sys2Proof/Safety.lean ====
section
/-!
DEFINITION. The terms claims are made in: the registers of a state as the integers the rules speak of, what a command may be
said to do to them, the invariant of the reachable states, and what counts as a safe run.
-/

namespace Sys2Proof.Machine

/-- The state tuple of spec/95_test_vectors.md, with TBL_BUILT: every register as the integer (or bit) the rules'
pseudocode computes with, whatever the configuration's widths. -/
structure View where
  fs : Nat
  freq : Nat
  inc : Nat
  phase : Nat
  cycleCount : Nat
  wrap : Bool
  gain : Nat
  last : Int
  ill : Bool
  tblBuilt : Bool
  deriving DecidableEq, Repr

/-- The registers of a state. -/
def State.view (s : State) : View where
  fs := s.regs.fs.toNat
  freq := s.regs.freq.toNat
  inc := s.regs.inc.toNat
  phase := s.regs.phase.toNat
  cycleCount := s.regs.cycleCount.toNat
  wrap := s.regs.wrap
  gain := s.regs.gain.toNat
  last := s.regs.last.toInt
  ill := s.regs.ill
  tblBuilt := s.tblBuilt

/-- Every register at its reset value (spec/70_reset_and_hazards.md R232). -/
def View.reset : View := ⟨0, 0, 0, 0, 0, false, 0, 0, false, false⟩

/-- `lookup(ph)` of spec/42_wavetable.md R131 as the rule writes it, on integers, over the table entries of R53 and R54. -/
def lookupValue (c : Config) (ph : Nat) : Int :=
  let e0 := tableEntry c (ph / 2 ^ c.fracBits)
  let e1 := tableEntry c (ph / 2 ^ c.fracBits + 1)
  e0 + floorDiv ((e1 - e0) * (ph % 2 ^ c.fracBits : Nat) + 2 ^ (c.fracBits - 1)) (2 ^ c.fracBits)

/-- The whole effect of a command on a state `s`: the next state `t` has the registers `v`, owes the host one more response
`r` due RSP_LATENCY cycles on, and differs from `s` in nothing else. -/
structure Effect (s t : State) (v : View) (r : Word) : Prop where
  registers : t.view = v
  response : t.inFlight = s.inFlight ++ [⟨s.cfg.rspLatency, r⟩]
  configuration : t.cfg = s.cfg
  inputs : t.edges = s.edges

/-- The command `i` completes on `s` with registers `v` and response `r`. -/
def Completes (i : Instr) (s : State) (v : View) (r : Word) : Prop :=
  ∃ t, exec i s = .next t ∧ Effect s t v r

/-- The invariant of the reachable states: the ranges of spec/10_state.md that a register's width does not already give,
and the order of the responses that are owed. -/
structure State.Inv (s : State) : Prop where
  /-- FREQ is what SET_FREQ stores: below Nyquist, 0 when FS is 0 (R35, R100). -/
  freq_clamped : (s.view.fs = 0 ∧ s.view.freq = 0) ∨ s.view.freq < s.view.fs * 2 ^ 15
  /-- FREQ is never a negative SQ15.16 pattern (R35). -/
  freq_nonneg : s.view.freq < 2 ^ 31
  /-- INC is the increment of FREQ at FS (R101, R111). -/
  inc_of_freq : s.view.inc = incOf s.cfg.phaseBits s.view.freq s.view.fs
  /-- GAIN is at most 1.0 (R39). -/
  gain_le_one : s.view.gain ≤ 2 ^ s.cfg.gainFracBits
  /-- LAST lies in [-PEAK, PEAK] (R40). -/
  last_bounded : -(s.cfg.peak : Int) ≤ s.view.last ∧ s.view.last ≤ s.cfg.peak
  /-- Responses are owed in acceptance order, no two in one cycle (R72). -/
  responses_ordered : s.inFlight.Pairwise fun a b => a.due < b.due
  /-- A response is owed for at least one and at most RSP_LATENCY cycles (R72). -/
  responses_due : ∀ q ∈ s.inFlight, 1 ≤ q.due ∧ q.due ≤ s.cfg.rspLatency
  /-- Before the first CONSTRUCT there is no sample rate (R45, R150). -/
  unbuilt_fs : s.view.tblBuilt = false → s.view.fs = 0

/-- The states runs reach, from the reset of any configuration with any inputs to come. -/
inductive Reachable : State → Prop where
  | reset (c : Config) (edges : List PortEdge) : Reachable (State.resetWith c edges)
  | step {s t : State} : Reachable s → Machine.step s = .next t → Reachable t

/-- The safe runs: `k` clock edges that end in a state, with no illegal command accepted (spec/60_exceptions.md R200: "a
claim about a command stream normally takes ILL = 0 at the end as a premise"). -/
def SafeRun (k : Nat) (s : State) : Prop := ∃ t, core.run k s = .next t ∧ t.view.ill = false

end Sys2Proof.Machine
end

