-- ==== Sys2Proof/Certificates/Slice0/Obligations.lean ====
section
/-!
DEFINITION. The statements for the provers. Each docstring names the rules of spec/ it formalises. `Completes i s v r` says
that `exec i s` answers a next state whose registers are exactly `v`, that owes exactly one more response, `r`, and that
differs from `s` in nothing else: so each such statement is the command's result, its frame and its completion in one.
-/

open Sys2Proof Sys2Proof.Machine

/-! ### Reset and the ports -/

/-- R232: the state after reset, in every configuration; and it is what CONSTRUCT with operand 0 produces from any state,
but for ILL and TBL_BUILT. -/
def Obligations.ResetLeavesEveryRegisterZero : Prop :=
  (∀ (c : Config) (es : List PortEdge),
    (State.resetWith c es).view =
        { fs := 0, freq := 0, inc := 0, phase := 0, cycleCount := 0, wrap := false, gain := 0, last := 0, ill := false,
          tblBuilt := false } ∧
      evenFlag (State.resetWith c es).regs.cycleCount = true ∧ altFlag (State.resetWith c es).regs.cycleCount = false ∧
      (State.resetWith c es).sampleOut.toInt = 0 ∧ (State.resetWith c es).offeredResponse = none) ∧
  ∀ s : State, Completes (.construct 0) s { View.reset with ill := s.view.ill, tblBuilt := true } 0

/-- R230: a rising edge with `rst = 1` resets from every state, whatever else stands on the port (so reset wins over a
command, R204), and drops the responses not delivered. -/
def Obligations.ResetEdgeResetsFromEveryState : Prop :=
  ∀ s : State, s.nextEdge.rst = true →
    ∃ t, step s = .next t ∧ t.view = View.reset ∧ t.inFlight = [] ∧ t.offeredResponse = none ∧ t.cfg = s.cfg ∧
      t.edges = s.edges.tail

/-- R72, R212: at an edge with `rst = 0` where no word is accepted, every register keeps its value; only the response port
moves on by one cycle. -/
def Obligations.UnacceptedWordHasNoEffect : Prop :=
  ∀ s : State, s.nextEdge.rst = false → (s.nextEdge.cmdValid = false ∨ s.nextEdge.cmdReady = false) →
    ∃ t, step s = .next t ∧ t.view = s.view ∧ t.inFlight = clockResponses s.inFlight ∧ t.cfg = s.cfg ∧
      t.edges = s.edges.tail

/-- R72, R183: when the word of a well-formed command stands on the port and is accepted, the step is that command's meaning,
at the state past this edge; moving past it touches no register. That the first edge with `rst = 0` after a reset accepts
too is the model's choice (DESIGN CHOICE, log entry 21): R230 says "After the first edge". -/
def Obligations.StepRunsTheDecodedCommand : Prop :=
  ∀ (s : State) (i : Instr), i.wellFormed = true → s.nextEdge.cmdWord = encode i → s.nextEdge.rst = false →
    s.nextEdge.cmdValid = true → s.nextEdge.cmdReady = true →
    step s = exec i s.pastEdge.clock ∧ s.pastEdge.clock.view = s.view ∧ s.pastEdge.clock.cfg = s.cfg ∧
      s.pastEdge.clock.edges = s.edges.tail ∧ s.pastEdge.clock.inFlight = clockResponses s.inFlight

/-- R72, R183, R201: the machine never stops, and every command on every state owes exactly one response more. -/
def Obligations.EveryStepAnswersAndEveryCommandResponds : Prop :=
  (∀ s : State, ∃ t, step s = .next t) ∧
  ∀ (i : Instr) (s : State), ∃ t r, exec i s = .next t ∧ t.inFlight = s.inFlight ++ [⟨s.cfg.rspLatency, r⟩]

/-- R72, on the model's reading of RSP_LATENCY (log entry 3): from a state of the invariant, a response owed for `d` cycles
more stays owed, and after `d - 1` further edges without reset it is the one offered to the host, whatever commands come in
between. -/
def Obligations.OwedResponseIsOfferedOnTime : Prop :=
  ∀ (s t : State) (q : Response) (k : Nat), s.Inv → q ∈ s.inFlight → k < q.due →
    (∀ e ∈ s.edges.take k, e.rst = false) → core.run k s = .next t →
    (⟨q.due - k, q.word⟩ : Response) ∈ t.inFlight ∧ (k + 1 = q.due → t.offeredResponse = some q.word)

/-- R72: responses come in acceptance order, each offered for one cycle. Over an edge without reset the words owed lose
their first if it was offered, and gain one at the end if a command was accepted; nothing else changes. -/
def Obligations.ResponsesLeaveInAcceptanceOrder : Prop :=
  ∀ s t : State, s.nextEdge.rst = false → step s = .next t →
    ∃ new : List Word, new.length = (if s.nextEdge.accepts then 1 else 0) ∧
      t.inFlight.map (·.word) =
        (if s.offeredResponse.isSome then (s.inFlight.map (·.word)).tail else s.inFlight.map (·.word)) ++ new

/-! ### Encoding -/

/-- R74, R78, R81: decoding the word of a well-formed command gives the command back, for every operand and every reserved
opcode. -/
def Obligations.DecodeOfEncodeIsIdentity : Prop := ∀ i : Instr, i.wellFormed = true → decode (encode i) = i

/-- R81: the decoder is total on the 2^40 words, gives well-formed commands only, and loses no bit: every word is the word
of the command it spells. -/
def Obligations.EveryWordIsTheWordOfItsCommand : Prop :=
  ∀ w : CmdWord, (decode w).wellFormed = true ∧ encode (decode w) = w

/-- R81: the twenty rows of the opcode table; the command is selected by OPC alone; each word matches exactly one row, the row
of the command it spells. -/
def Obligations.EachWordMatchesExactlyOneRow : Prop :=
  (∀ k < 16, opcodeTable[k]? = some ⟨BitVec.ofNat 40 (k * 2 ^ 32), 0xFF00000000⟩) ∧
  opcodeTable.drop 16 =
    [⟨0x1000000000, 0xF000000000⟩, ⟨0x2000000000, 0xE000000000⟩, ⟨0x4000000000, 0xC000000000⟩,
      ⟨0x8000000000, 0x8000000000⟩] ∧
  (∀ (w : CmdWord) (k : Nat) (r : TableRow), opcodeTable[k]? = some r →
    (w &&& r.mask = r.pattern ↔ k = (decode w).rowIndex)) ∧
  ∀ w : CmdWord, (decode w).rowIndex < 20 ∧ (decode w).opcode = opcodeField w ∧
    ∀ w' : CmdWord, opcodeField w = opcodeField w' → (decode w).rowIndex = (decode w').rowIndex

/-- R88: the spec's own encodings, assembled, encoded and decoded. -/
def Obligations.ReferenceEncodings : Prop :=
  (assemble .construct (some 48000)).map encode = some 0x010000BB80 ∧
  ((Pseudo.setFreqHz 1000).expand.map fun is => is.map encode) = some [0x0203E80000] ∧
  assemble .setFreq (some 65536000) = some (.setFreq 0x03E80000) ∧
  (Pseudo.setGainUnity.expand.map fun is => is.map encode) = some [0x0300010000] ∧
  (assemble .process none).map encode = some 0x0400000000 ∧
  (assemble .resetPhase (some 0x40000000)).map encode = some 0x0740000000 ∧
  (assemble .lookup (some 0xFFFFFFFF)).map encode = some 0x0CFFFFFFFF ∧
  decode 0x010000BB80 = .construct 48000 ∧ decode 0x0203E80000 = .setFreq 0x03E80000 ∧
  decode 0x0300010000 = .setGain 0x00010000 ∧ decode 0x0400000000 = .process 0 ∧
  decode 0x0740000000 = .resetPhase 0x40000000 ∧ decode 0x0CFFFFFFFF = .lookup 0xFFFFFFFF

/-- R87: the pseudo-instructions, each under its condition and not otherwise; the operand of SET_FREQ_HZ n is exactly
n * 65536 as an SQ15.16 pattern. -/
def Obligations.PseudoInstructionsExpand : Prop :=
  (∀ n : Int, -32768 ≤ n → n ≤ 32767 →
    ∃ op : Word, (Pseudo.setFreqHz n).expand = some [.setFreq op] ∧ operandSQ op = n * 65536) ∧
  (∀ n : Int, (n < -32768 ∨ 32767 < n) → (Pseudo.setFreqHz n).expand = none) ∧
  Pseudo.setGainUnity.expand = some [.setGain 0x00010000] ∧ Pseudo.setGainZero.expand = some [.setGain 0x00000000] ∧
  Pseudo.rewind.expand = some [.resetPhase 0x00000000] ∧ Pseudo.idle.expand = some [.nop 0] ∧
  (∀ k : Nat, 1 ≤ k → ∃ is, (Pseudo.processN k).expand = some is ∧ is.length = k ∧ ∀ i ∈ is, i = .process 0) ∧
  (Pseudo.processN 0).expand = none

/-- R86: a command with an operand takes an integer literal in [-2^31, 2^32-1] and encodes its 32-bit pattern; a command of form
`none` takes none and encodes 0; any other line is none. That LOOKUP's literal is encoded whole for W < 32 too is the model's choice
between R86 and R80 (DESIGN CHOICE, log entry 22). -/
def Obligations.AssemblerOperandsFollowTheForm : Prop :=
  ∀ (m : Mnemonic) (v : Int),
    (m.takesOperand = true →
      assemble m none = none ∧
      (-(2 ^ 31) ≤ v → v ≤ 2 ^ 32 - 1 →
        ∃ op : Word, assemble m (some v) = some (m.command op) ∧ (m.command op).operand = op ∧ (op.toNat : Int) = v % 2 ^ 32) ∧
      (v < -(2 ^ 31) ∨ 2 ^ 32 - 1 < v → assemble m (some v) = none)) ∧
    (m.takesOperand = false → assemble m none = some (m.command 0) ∧ assemble m (some v) = none)

/-- R80: a command of operand form `none`, and a reserved one, does the same whatever its operand; LOOKUP does the same for
two operands that agree on their low W bits. R86: the assembler encodes the ignored operand bits of a command of form `none`
as 0; what it does with those of LOOKUP is no part of this statement (log entry 22). -/
def Obligations.IgnoredOperandBitsChangeNothing : Prop :=
  (∀ (w w' : CmdWord) (s : State), opcodeField w = opcodeField w' → (decode w).operandForm = .none →
    exec (decode w) s = exec (decode w') s) ∧
  (∀ (op op' : Word) (s : State), op.toNat % 2 ^ s.cfg.phaseBits = op'.toNat % 2 ^ s.cfg.phaseBits →
    exec (.lookup op) s = exec (.lookup op') s) ∧
  ∀ m : Mnemonic, m.takesOperand = false →
    assemble m none = some (m.command 0) ∧ (encode (m.command 0)).toNat % 2 ^ 32 = 0

/-! ### The commands, one by one -/

/-- R180: NOP has opcode 0x00, changes nothing and responds 0. -/
def Obligations.NopChangesNothing : Prop :=
  ∀ (s : State) (op : Word), encode (.nop op) = (0x00#8 ++ op : CmdWord) ∧ Completes (.nop op) s s.view 0

/-- R150: CONSTRUCT writes every register: FS from the operand, 0 everywhere else; ILL keeps its value, TBL_BUILT is set. -/
def Obligations.ConstructStartsAVoice : Prop :=
  ∀ (s : State) (op : Word),
    encode (.construct op) = (0x01#8 ++ op : CmdWord) ∧
    Completes (.construct op) s
      { fs := op.toNat, freq := 0, inc := 0, phase := 0, cycleCount := 0, wrap := false, gain := 0, last := 0,
        ill := s.view.ill, tblBuilt := true } 0

/-- R111, R100, R101: SET_FREQ stores the frequency clamped at FS, in units of 2^-16 Hz, and its increment, by exact integer
division; no other register changes. -/
def Obligations.SetFreqStoresFrequencyAndIncrement : Prop :=
  ∀ (s : State) (op : Word),
    let fs := s.view.fs
    let fc : Nat :=
      if fs = 0 ∨ op.toInt < 0 then 0 else if (2 ^ 15 * fs : Nat) ≤ op.toInt then 2 ^ 15 * fs - 1 else op.toInt.toNat
    let inc : Nat := if fs = 0 then 0 else (fc * 2 ^ (s.cfg.phaseBits + 1) + fs * 2 ^ 16) / (fs * 2 ^ 17)
    encode (.setFreq op) = (0x02#8 ++ op : CmdWord) ∧
    Completes (.setFreq op) s { s.view with freq := fc, inc := inc } 0

/-- R151: SET_GAIN clamps the operand to [0, 1] and rounds it to GF fraction bits; no other register changes. -/
def Obligations.SetGainStoresQuantizedGain : Prop :=
  ∀ (s : State) (op : Word),
    let gc : Nat := if op.toInt < 0 then 0 else if 65536 < op.toInt then 65536 else op.toInt.toNat
    let gq : Nat :=
      if s.cfg.gainFracBits = 16 then gc else (gc + 2 ^ (15 - s.cfg.gainFracBits)) / 2 ^ (16 - s.cfg.gainFracBits)
    encode (.setGain op) = (0x03#8 ++ op : CmdWord) ∧ gq ≤ 2 ^ s.cfg.gainFracBits ∧
    Completes (.setGain op) s { s.view with gain := gq } 0

/-- R102, R104: TICK adds INC to PHASE modulo 2^W; WRAP tells whether the new PHASE is below INC, and CYCLE_COUNT counts it
modulo 256; no other register changes. -/
def Obligations.TickAdvancesPhase : Prop :=
  ∀ (s : State) (op : Word),
    let phase := (s.view.phase + s.view.inc) % 2 ^ s.cfg.phaseBits
    let wrap := decide (phase < s.view.inc)
    encode (.tick op) = (0x0B#8 ++ op : CmdWord) ∧
    Completes (.tick op) s
      { s.view with phase := phase, wrap := wrap, cycleCount := (s.view.cycleCount + wrap.toNat) % 256 } 0

/-- R105: RESET_PHASE rounds the position to W bits, modulo 2^W, and clears CYCLE_COUNT iff the operand is 0; for W = 32
PHASE becomes the operand; no other register changes. -/
def Obligations.ResetPhaseSetsPosition : Prop :=
  ∀ (s : State) (op : Word),
    let phase := (op.toNat * 2 ^ (s.cfg.phaseBits + 1) + 2 ^ 32) / 2 ^ 33 % 2 ^ s.cfg.phaseBits
    encode (.resetPhase op) = (0x07#8 ++ op : CmdWord) ∧ (s.cfg.phaseBits = 32 → phase = op.toNat) ∧
    Completes (.resetPhase op) s
      { s.view with phase := phase, cycleCount := if op.toNat = 0 then 0 else s.view.cycleCount } 0

/-- R131, R132: LOOKUP responds with the interpolation between the two table entries around the operand's phase, on exact
integers with the rounding bias and the arithmetic shift, which is the weighted step rounded half up; it writes nothing. -/
def Obligations.LookupInterpolates : Prop :=
  ∀ (s : State) (op : Word),
    let fb := s.cfg.phaseBits - s.cfg.tableBits
    let ph := op.toNat % 2 ^ s.cfg.phaseBits
    let e0 := tableEntry s.cfg (ph / 2 ^ fb)
    let e1 := tableEntry s.cfg (ph / 2 ^ fb + 1)
    encode (.lookup op) = (0x0C#8 ++ op : CmdWord) ∧
    ((e1 - e0) * (ph % 2 ^ fb : Nat) + 2 ^ (fb - 1)) / 2 ^ fb = ⌊((e1 - e0) * (ph % 2 ^ fb : Nat) : ℚ) / 2 ^ fb + 1 / 2⌋ ∧
    Completes (.lookup op) s s.view (BitVec.ofInt 32 (e0 + ((e1 - e0) * (ph % 2 ^ fb : Nat) + 2 ^ (fb - 1)) / 2 ^ fb))

/-- R153, R152: with a gain of at most 1.0 (every reachable state), PROCESS ticks, looks up at the new phase, scales by GAIN
with the rounding bias and the arithmetic shift, caches the sample in LAST and responds with it; no other register
changes. -/
def Obligations.ProcessProducesOneSample : Prop :=
  ∀ (s : State) (op : Word), s.view.gain ≤ 2 ^ s.cfg.gainFracBits →
    let phase := (s.view.phase + s.view.inc) % 2 ^ s.cfg.phaseBits
    let wrap := decide (phase < s.view.inc)
    let y := (lookupValue s.cfg phase * s.view.gain + 2 ^ (s.cfg.gainFracBits - 1)) / 2 ^ s.cfg.gainFracBits
    encode (.process op) = (0x04#8 ++ op : CmdWord) ∧
    Completes (.process op) s
      { s.view with
        phase := phase, wrap := wrap, cycleCount := (s.view.cycleCount + wrap.toNat) % 256, last := y }
      (BitVec.ofInt 32 y)

/-- R106, R107, R110, R154, R155: the read commands respond with their register, zero-extended (LAST sign-extended), and
write nothing. -/
def Obligations.ReadCommandsAnswerTheirRegister : Prop :=
  ∀ (s : State) (op : Word),
    encode (.getPhase op) = (0x06#8 ++ op : CmdWord) ∧ encode (.getInc op) = (0x0F#8 ++ op : CmdWord) ∧
    encode (.getFreq op) = (0x08#8 ++ op : CmdWord) ∧ encode (.getGain op) = (0x0E#8 ++ op : CmdWord) ∧
    encode (.getLast op) = (0x05#8 ++ op : CmdWord) ∧
    Completes (.getPhase op) s s.view (BitVec.ofNat 32 s.view.phase) ∧
    Completes (.getInc op) s s.view (BitVec.ofNat 32 s.view.inc) ∧
    Completes (.getFreq op) s s.view (BitVec.ofNat 32 s.view.freq) ∧
    Completes (.getGain op) s s.view (BitVec.ofNat 32 s.view.gain) ∧
    Completes (.getLast op) s s.view (BitVec.ofInt 32 s.view.last)

/-- R42, R43, R108, R109: GET_EVEN responds 1 iff CYCLE_COUNT is even, GET_ALT with its bit 1; they write nothing. -/
def Obligations.ParityCommandsAnswerEvenAndAlt : Prop :=
  ∀ (s : State) (op : Word),
    encode (.getEven op) = (0x09#8 ++ op : CmdWord) ∧ encode (.getAlt op) = (0x0A#8 ++ op : CmdWord) ∧
    Completes (.getEven op) s s.view (if s.view.cycleCount % 2 = 0 then 1 else 0) ∧
    Completes (.getAlt op) s s.view (BitVec.ofNat 32 (s.view.cycleCount % 4 / 2))

/-- R181: GET_STATUS responds with EVEN in bit 0, ALT in bit 1, WRAP in bit 2, CYCLE_COUNT in bits 15:8 and ILL in bit 16,
all other bits 0, and writes nothing: reading clears neither ILL nor WRAP. -/
def Obligations.StatusWordLayout : Prop :=
  ∀ (s : State) (op : Word),
    encode (.getStatus op) = (0x0D#8 ++ op : CmdWord) ∧
    Completes (.getStatus op) s s.view
      (BitVec.ofNat 32 ((if s.view.cycleCount % 2 = 0 then 1 else 0) + 2 * (s.view.cycleCount % 4 / 2) +
        4 * s.view.wrap.toNat + 256 * s.view.cycleCount + 65536 * s.view.ill.toNat))

/-- R182: a word whose opcode is 0x10 or more is a reserved command, whatever its operand: it raises IllegalCommand (cause
code 1, R202), which sets ILL, changes no other register, and responds 0. -/
def Obligations.ReservedCommandSetsOnlyIll : Prop :=
  (∀ (s : State) (w : CmdWord), 0x10 ≤ (opcodeField w).toNat →
    (decode w).isReserved = true ∧ (causeOf (decode w)).code = 1 ∧
      Completes (decode w) s { s.view with ill := true } 0) ∧
  ∀ (s : State) (opc : Byte) (op : Word),
    Completes (.reserved10to1F opc op) s { s.view with ill := true } 0 ∧
    Completes (.reserved20to3F opc op) s { s.view with ill := true } 0 ∧
    Completes (.reserved40to7F opc op) s { s.view with ill := true } 0 ∧
    Completes (.reserved80toFF opc op) s { s.view with ill := true } 0

/-! ### Rules about the whole command set -/

/-- R41, R200, R201, R202: ILL is set by a reserved command and by nothing else, and at an edge without reset it is never
cleared; a command that is not reserved raises no event. -/
def Obligations.IllIsStickyAndSetByReservedOnly : Prop :=
  (∀ (i : Instr) (s t : State), exec i s = .next t → t.view.ill = (s.view.ill || i.isReserved)) ∧
  (∀ s t : State, step s = .next t → s.nextEdge.rst = false → s.view.ill = true → t.view.ill = true) ∧
  ∀ (w : CmdWord), ((decode w).isReserved = true ↔ 0x10 ≤ (opcodeField w).toNat) ∧
    ((opcodeField w).toNat < 0x10 → (causeOf (decode w)).code = 0)

/-- R33 to R40, R47: which commands may write each register. -/
def Obligations.RegistersChangeOnlyByTheirWriters : Prop :=
  ∀ (i : Instr) (s t : State), exec i s = .next t →
    (t.view.phase ≠ s.view.phase → ∃ op, i = .tick op ∨ i = .process op ∨ i = .resetPhase op ∨ i = .construct op) ∧
    (t.view.inc ≠ s.view.inc → ∃ op, i = .setFreq op ∨ i = .construct op) ∧
    (t.view.freq ≠ s.view.freq → ∃ op, i = .setFreq op ∨ i = .construct op) ∧
    (t.view.fs ≠ s.view.fs → ∃ op, i = .construct op) ∧
    (t.view.cycleCount ≠ s.view.cycleCount →
      ∃ op, i = .tick op ∨ i = .process op ∨ i = .resetPhase op ∨ i = .construct op) ∧
    (t.view.wrap ≠ s.view.wrap → ∃ op, i = .tick op ∨ i = .process op ∨ i = .construct op) ∧
    (t.view.gain ≠ s.view.gain → ∃ op, i = .setGain op ∨ i = .construct op) ∧
    (t.view.last ≠ s.view.last → ∃ op, i = .process op ∨ i = .construct op) ∧
    (t.view.tblBuilt ≠ s.view.tblBuilt → t.view.tblBuilt = true ∧ ∃ op, i = .construct op) ∧
    t.cfg = s.cfg ∧ t.edges = s.edges

/-- R73: `sample_out` shows LAST, and over a clock edge it changes only when PROCESS or CONSTRUCT is accepted or at reset. -/
def Obligations.SampleOutChangesOnlyByItsWriters : Prop :=
  (∀ s : State, s.sampleOut.toInt = s.view.last) ∧
  (∀ (c : Config) (es : List PortEdge), (State.resetWith c es).sampleOut.toInt = 0) ∧
  ∀ s t : State, step s = .next t → t.sampleOut.toInt ≠ s.sampleOut.toInt →
    s.nextEdge.rst = true ∨
      (s.nextEdge.accepts = true ∧ ∃ op, decode s.nextEdge.cmdWord = .process op ∨ decode s.nextEdge.cmdWord = .construct op)

/-- R45: no command reads TBL_BUILT, and no response or port shows it: two states that differ in it alone step to states that
differ in it alone. -/
def Obligations.TblBuiltIsInvisible : Prop :=
  ∀ (s : State) (b : Bool), ∃ (t : State) (b' : Bool),
    step s = .next t ∧ step { s with tblBuilt := b } = .next { t with tblBuilt := b' } ∧
    ({ t with tblBuilt := b' } : State).offeredResponse = t.offeredResponse

/-- R213: a voice's clock edge is the block's own step with the shared bit; it changes no other voice's registers, ports or
owed responses; and what the voice does depends on no other voice, on no number of voices and on no place among them: two
voices that own the same, on two platforms of one configuration, own the same after a clock edge. What the step does to the
shared bit is the model's deduction (DEDUCED, log entry 8): the reset of any one voice clears it for all. -/
def Obligations.VoicesAreIsolated : Prop :=
  (∀ (pc : PlatformConfig) (p : Platform pc) (k : Fin pc.numVoices),
    ∃ (q : Platform pc) (t : State), p.stepVoice k = .next q ∧ step (p.voice k) = .next t ∧ q.voice k = t ∧
      q.tblBuilt = t.tblBuilt ∧ ∀ j, j ≠ k → q.voices[j] = p.voices[j]) ∧
  ∀ (c : Config) (n n' : Nat) (hn : 1 ≤ n) (hn' : 1 ≤ n') (p q : Platform ⟨c, n, hn⟩) (p' : Platform ⟨c, n', hn'⟩)
    (k : Fin n) (k' : Fin n'),
    p.voices[k] = p'.voices[k'] → p.stepVoice k = .next q →
    ∃ q' : Platform ⟨c, n', hn'⟩, p'.stepVoice k' = .next q' ∧ q'.voices[k'] = q.voices[k]

/-! ### The phase accumulator -/

/-- R103: the wraparound test is exact: WRAP is 1 exactly when the unbounded sum reaches 2^W, and never for INC = 0. Over `k`
consecutive clock edges that each accept a TICK or a PROCESS, PHASE moves by `k * INC` modulo 2^W and CYCLE_COUNT by the
number of wraps, how often the unbounded sum passes a multiple of 2^W; FREQ, INC, FS, GAIN and ILL keep their values. -/
def Obligations.TicksCountWrapsExactly : Prop :=
  (∀ (s t : State) (op : Word), (exec (.tick op) s = .next t ∨ exec (.process op) s = .next t) →
    (t.view.wrap = true ↔ 2 ^ s.cfg.phaseBits ≤ s.view.phase + s.view.inc) ∧
    (s.view.inc = 0 → t.view.wrap = false ∧ t.view.phase = s.view.phase ∧ t.view.cycleCount = s.view.cycleCount)) ∧
  ∀ (s : State) (k : Nat),
    (∀ j < k, ∃ op, s.edges[j]? = some (.command (encode (.tick op))) ∨
      s.edges[j]? = some (.command (encode (.process op)))) →
    ∃ t, core.run k s = .next t ∧ t.cfg = s.cfg ∧ t.edges = s.edges.drop k ∧
      t.view.phase = (s.view.phase + k * s.view.inc) % 2 ^ s.cfg.phaseBits ∧
      t.view.cycleCount = (s.view.cycleCount + (s.view.phase + k * s.view.inc) / 2 ^ s.cfg.phaseBits) % 256 ∧
      t.view.inc = s.view.inc ∧ t.view.freq = s.view.freq ∧ t.view.fs = s.view.fs ∧ t.view.gain = s.view.gain ∧
      t.view.ill = s.view.ill ∧ t.view.tblBuilt = s.view.tblBuilt

/-- R113, R101: with fs/f an integer `n`, one SET_FREQ and then `n` ticks bring the phase back to within n/2 units of where it
was: INC is round(2^W / n) and n * INC misses 2^W by at most n/2. The rule says n >= 2; at n = 2 the frequency is not below
Nyquist and R100 clamps it, so `n` starts at 3 here (log entry 10). -/
def Obligations.PhaseDriftOverOnePeriod : Prop :=
  ∀ (s : State) (op : Word) (n : Nat), 3 ≤ n → 1 ≤ s.view.fs → s.view.fs ≤ 65535 → op.toInt * n = s.view.fs * 2 ^ 16 →
    s.edges.head? = some (.command (encode (.setFreq op))) →
    (∀ j < n, ∃ op', s.edges[j + 1]? = some (.command (encode (.tick op'))) ∨
      s.edges[j + 1]? = some (.command (encode (.process op')))) →
    ∃ (t : State) (e : Int), core.run (n + 1) s = .next t ∧
      t.view.inc = (2 ^ (s.cfg.phaseBits + 1) + n) / (2 * n) ∧
      (n * t.view.inc : Int) = 2 ^ s.cfg.phaseBits + e ∧ 2 * |e| ≤ n ∧
      (t.view.phase : Int) = (s.view.phase + e) % 2 ^ s.cfg.phaseBits

/-- R100: the stored frequency is never negative and never reaches Nyquist, an operand inside the range is stored as it is,
and for FS >= 65536 the upper clamp never fires. -/
def Obligations.ClampedFrequencyIsBelowNyquist : Prop :=
  ∀ (s t : State) (op : Word), exec (.setFreq op) s = .next t →
    t.view.freq < 2 ^ 31 ∧ (s.view.fs = 0 → t.view.freq = 0) ∧
    (s.view.fs ≠ 0 → t.view.freq < s.view.fs * 2 ^ 15) ∧
    (s.view.fs ≠ 0 → op.toInt < 0 → t.view.freq = 0) ∧
    (0 ≤ op.toInt → op.toInt < s.view.fs * 2 ^ 15 → t.view.freq = op.toInt) ∧
    (65536 ≤ s.view.fs → 0 ≤ op.toInt → t.view.freq = op.toInt)

/-- R101, R34: the increment SET_FREQ stores is the one integer nearest to frequency / sampleRate * 2^W, an exact half rounding
up, and it is at most 2^(W-1). -/
def Obligations.IncrementIsTheNearestRatio : Prop :=
  ∀ (s t : State) (op : Word), s.view.fs ≠ 0 → exec (.setFreq op) s = .next t →
    t.view.inc ≤ 2 ^ (s.cfg.phaseBits - 1) ∧
    (2 * t.view.inc - 1 : Int) * (s.view.fs * 2 ^ 16) ≤ t.view.freq * 2 ^ (s.cfg.phaseBits + 1) ∧
    (t.view.freq * 2 ^ (s.cfg.phaseBits + 1) : Int) < (2 * t.view.inc + 1) * (s.view.fs * 2 ^ 16)

/-- R100, R101, R103: below Nyquist no two consecutive ticks both wrap, each performed by a TICK or a PROCESS (R27, R102). -/
def Obligations.NoTwoConsecutiveWraps : Prop :=
  ∀ (s t u : State) (op op' : Word), s.Inv →
    (exec (.tick op) s = .next t ∨ exec (.process op) s = .next t) →
    (exec (.tick op') t = .next u ∨ exec (.process op') t = .next u) →
    ¬(t.view.wrap = true ∧ u.view.wrap = true)

/-! ### The wave-table -/

/-- `round_away` of R53: to the nearest integer, halves away from zero. -/
noncomputable def Sys2Proof.Machine.roundAway (x : ℝ) : ℤ := if 0 ≤ x then ⌊x + 1 / 2⌋ else -⌊-x + 1 / 2⌋

/-- R53: in every legal configuration, every ROM entry below the guard is PEAK * sin(2*pi*i/N) rounded to the nearest integer,
halves away from zero, sin and pi the exact real ones; and it lies in [-PEAK, PEAK]. -/
def Obligations.RomHoldsTheRoundedSine : Prop :=
  ∀ (c : Config) (i : Fin (c.tableSize + 1)), i.val < c.tableSize →
    (romRead c i).toInt = roundAway (c.peak * Real.sin (2 * Real.pi * i.val / c.tableSize)) ∧
    -(c.peak : Int) ≤ (romRead c i).toInt ∧ (romRead c i).toInt ≤ c.peak

/-- R55 (which says it of the two listed tables; here of every legal configuration), R23: every ROM entry below the guard is PEAK * sin(2*pi*i/N) rounded half up, and
strictly nearer to it than one half: no value lies on a rounding tie, so rounding halves up and halves away from zero (R53)
give the one table the ROM holds. -/
def Obligations.BothRoundingsGiveTheSameTable : Prop :=
  ∀ (c : Config) (i : Fin (c.tableSize + 1)), i.val < c.tableSize →
    let x : ℝ := c.peak * Real.sin (2 * Real.pi * i.val / c.tableSize)
    (romRead c i).toInt = ⌊x + 1 / 2⌋ ∧ (romRead c i).toInt = roundAway x ∧
    |((romRead c i).toInt : ℝ) - x| < 1 / 2 ∧ ∀ k : Int, x ≠ k + 1 / 2

/-- R54, R55: the guard sample is entry 0, which is 0; the table is odd about its middle; and for TB >= 2 the quarter points
are PEAK, 0 and -PEAK. -/
def Obligations.RomGuardAndSymmetry : Prop :=
  ∀ c : Config,
    tableEntry c c.tableSize = tableEntry c 0 ∧ tableEntry c 0 = 0 ∧
    (∀ i, 1 ≤ i → i < c.tableSize → tableEntry c (c.tableSize - i) = -tableEntry c i) ∧
    (2 ≤ c.tableBits →
      tableEntry c (c.tableSize / 4) = c.peak ∧ tableEntry c (c.tableSize / 2) = 0 ∧
      tableEntry c (3 * c.tableSize / 4) = -(c.peak : Int))

/-- R56: with TB = 8 and S = 16 the ROM holds the 257 listed values. -/
def Obligations.RomListing256 : Prop :=
  ∀ c : Config, c.tableBits = 8 → c.sampleBits = 16 → (List.range 257).map (tableEntry c) = listing256

/-- R57: with TB = 12 and S = 16 the ROM holds the 4097 listed values. -/
def Obligations.RomListing4096 : Prop :=
  ∀ c : Config, c.tableBits = 12 → c.sampleBits = 16 → (List.range 4097).map (tableEntry c) = listing4096

/-- R133: the lookup never overshoots its two nodes, stays in [-PEAK, PEAK], and for one index is monotonic in the fraction, in
the direction of the slope. -/
def Obligations.LookupNeverOvershoots : Prop :=
  ∀ (c : Config) (ph ph' : BitVec c.phaseBits),
    min (nodeBefore c ph) (nodeAfter c ph) ≤ lookup c ph ∧ lookup c ph ≤ max (nodeBefore c ph) (nodeAfter c ph) ∧
    -(c.peak : Int) ≤ lookup c ph ∧ lookup c ph ≤ c.peak ∧
    (indexField c ph = indexField c ph' → fractionField c ph ≤ fractionField c ph' →
      (nodeBefore c ph ≤ nodeAfter c ph → lookup c ph ≤ lookup c ph') ∧
      (nodeAfter c ph ≤ nodeBefore c ph → lookup c ph' ≤ lookup c ph))

/-- R134: the interpolated step at the last position before the wrap; where the last step `d` of the table is small against
the fraction field, it is exactly `d`, and that position reads as position 0 does; in REF `d` is 804 and both read 0. -/
def Obligations.LookupIsContinuousAcrossTheGuard : Prop :=
  (∀ c : Config,
    let d := tableEntry c c.tableSize - tableEntry c (c.tableSize - 1)
    lookup c (BitVec.allOnes c.phaseBits) =
        tableEntry c (c.tableSize - 1) + ⌊(d : ℚ) - d / 2 ^ c.fracBits + 1 / 2⌋ ∧
      (|d| < 2 ^ (c.fracBits - 1) →
        ⌊(d : ℚ) - d / 2 ^ c.fracBits + 1 / 2⌋ = d ∧
        lookup c (BitVec.allOnes c.phaseBits) = tableEntry c c.tableSize ∧ tableEntry c c.tableSize = tableEntry c 0 ∧
        tableEntry c 0 = lookup c 0)) ∧
  tableEntry Config.ref Config.ref.tableSize - tableEntry Config.ref (Config.ref.tableSize - 1) = 804 ∧
  lookup Config.ref 0xFFFFFFFF#32 = 0 ∧ lookup Config.ref 0#32 = 0

/-- R136: in REF the reference lookups: phase, index, fraction, the two nodes, the value and the response. -/
def Obligations.ReferenceLookups : Prop :=
  ∀ row ∈ ([
      (0x00000000, 0, 0x000000, 0, 804, 0, 0x00000000), (0x00000001, 0, 0x000001, 0, 804, 0, 0x00000000),
      (0x00800000, 0, 0x800000, 0, 804, 402, 0x00000192), (0x00FFFFFF, 0, 0xFFFFFF, 0, 804, 804, 0x00000324),
      (0x01000000, 1, 0x000000, 804, 1608, 804, 0x00000324),
      (0x04800000, 4, 0x800000, 3212, 4011, 3612, 0x00000E1C),
      (0x3FFFFFFC, 63, 0xFFFFFC, 32757, 32767, 32767, 0x00007FFF),
      (0x40000000, 64, 0x000000, 32767, 32757, 32767, 0x00007FFF),
      (0x40800000, 64, 0x800000, 32767, 32757, 32762, 0x00007FFA),
      (0x7FFFFFFF, 127, 0xFFFFFF, 804, 0, 0, 0x00000000), (0x80000000, 128, 0x000000, 0, -804, 0, 0x00000000),
      (0x84800000, 132, 0x800000, -3212, -4011, -3611, 0xFFFFF1E5),
      (0xC0000000, 192, 0x000000, -32767, -32757, -32767, 0xFFFF8001),
      (0xFF000000, 255, 0x000000, -804, 0, -804, 0xFFFFFCDC), (0xFFFFFFFF, 255, 0xFFFFFF, -804, 0, 0, 0x00000000)] :
      List (Word × Nat × Nat × Int × Int × Int × Word)),
    let ph := operandPH Config.ref row.1
    (indexField Config.ref ph, fractionField Config.ref ph, nodeBefore Config.ref ph, nodeAfter Config.ref ph,
      lookup Config.ref ph, responseSample (lookup Config.ref ph)) = row.2

/-- R135, R157: the widened intermediates fit: the interpolation's in S + FB + 1 signed bits, and at most 64; the gain stage's
in S + GF signed bits. -/
def Obligations.WidenedProductsFit : Prop :=
  ∀ (c : Config) (ph : BitVec c.phaseBits) (g : Nat),
    |(nodeAfter c ph - nodeBefore c ph) * (fractionField c ph : Int)| + 2 ^ (c.fracBits - 1) <
      2 ^ (c.sampleBits + c.fracBits) ∧
    c.sampleBits + c.fracBits + 1 ≤ 64 ∧
    (g ≤ 2 ^ c.gainFracBits →
      -(2 ^ (c.sampleBits + c.gainFracBits - 1) : Int) < lookup c ph * g + 2 ^ (c.gainFracBits - 1) ∧
      lookup c ph * g + 2 ^ (c.gainFracBits - 1) < 2 ^ (c.sampleBits + c.gainFracBits - 1))

/-! ### The gain stage -/

/-- R156: with GAIN 0 every PROCESS output is 0; with GAIN 1.0 it is the raw lookup at the new phase; with 0.25 and 0.5 it is
v/4 and v/2 rounded half up. -/
def Obligations.GainLaws : Prop :=
  ∀ (s t : State) (op : Word), exec (.process op) s = .next t →
    let v := lookupValue s.cfg ((s.view.phase + s.view.inc) % 2 ^ s.cfg.phaseBits)
    (s.view.gain = 0 → t.view.last = 0) ∧
    (s.view.gain = 2 ^ s.cfg.gainFracBits → t.view.last = v) ∧
    (s.view.gain * 4 = 2 ^ s.cfg.gainFracBits → t.view.last = ⌊(v : ℚ) / 4 + 1 / 2⌋) ∧
    (s.view.gain * 2 = 2 ^ s.cfg.gainFracBits → t.view.last = ⌊(v : ℚ) / 2 + 1 / 2⌋)

/-- R152: the scaled sample is the exact product with the rounding bias, shifted down: the product rounded half up, and never
larger than the sample. -/
def Obligations.GainMultiplyRoundsHalfUp : Prop :=
  ∀ (gf : Nat) (v : Int) (g : Nat), 1 ≤ gf →
    gainMul gf v g = (v * g + 2 ^ (gf - 1)) / 2 ^ gf ∧
    gainMul gf v g = ⌊(v * g : ℚ) / 2 ^ gf + 1 / 2⌋ ∧ (g ≤ 2 ^ gf → |gainMul gf v g| ≤ |v|)

/-- R151: the stored gain is the clamped operand's value times 2^GF, rounded half up. -/
def Obligations.GainQuantizationRoundsHalfUp : Prop :=
  ∀ (s t : State) (op : Word), exec (.setGain op) s = .next t →
    (t.view.gain : Int) = ⌊((max 0 (min op.toInt 65536) : Int) : ℚ) / 2 ^ 16 * 2 ^ s.cfg.gainFracBits + 1 / 2⌋

/-! ### The invariant -/

/-- The invariant holds after reset, in every configuration. -/
def Obligations.ResetMeetsTheInvariant : Prop :=
  ∀ (c : Config) (es : List PortEdge), (State.resetWith c es).Inv

/-- Every clock edge keeps the invariant: the stored frequency below Nyquist, INC the increment of FREQ at FS, GAIN at most
1.0, LAST within the peaks, the owed responses in order and on time. -/
def Obligations.EveryStepKeepsTheInvariant : Prop := ∀ s t : State, s.Inv → step s = .next t → t.Inv

/-- R34, R35, R39, R40: in every reachable state the registers lie in the ranges the spec's table gives: INC at most 2^(W-1),
FREQ below 2^31 and below Nyquist, GAIN at most 2^GF, LAST in [-PEAK, PEAK]. -/
def Obligations.ReachableRegistersLieInTheirRanges : Prop :=
  ∀ s : State, Reachable s →
    s.view.inc ≤ 2 ^ (s.cfg.phaseBits - 1) ∧ s.view.freq < 2 ^ 31 ∧
    (s.view.freq = 0 ∨ s.view.freq < s.view.fs * 2 ^ 15) ∧ s.view.gain ≤ 2 ^ s.cfg.gainFracBits ∧
    -(s.cfg.peak : Int) ≤ s.view.last ∧ s.view.last ≤ s.cfg.peak

/-! ### Configurations -/

/-- R9 to R14, R17: exactly the parameters in their legal ranges are a configuration; any other is refused. -/
def Obligations.OnlyLegalParametersConfigure : Prop :=
  ∀ p : Params, (p.toConfig?.isSome = true ↔
    1 ≤ p.tableBits ∧ p.tableBits ≤ 16 ∧ p.tableBits < p.phaseBits ∧ p.phaseBits ≤ 32 ∧ 2 ≤ p.sampleBits ∧
      p.sampleBits ≤ 32 ∧ 1 ≤ p.gainFracBits ∧ p.gainFracBits ≤ 16 ∧ 1 ≤ p.rspLatency) ∧
    ∀ c, p.toConfig? = some c → c.toParams = p

/-! ### The voices of a platform -/

/-- R18, R51, R64: a platform has at least one voice, and no voices are refused; whatever happens, every voice has the
platform's one configuration, so reads the one ROM, and sees the one TBL_BUILT bit; a CONSTRUCT accepted by any voice sets it
for every voice; at reset each voice is a block at reset. That all parameters, not the ROM's alone, are one for all voices is
the model's choice (DESIGN CHOICE, log entry 9). -/
def Obligations.PlatformVoicesShareOneRom : Prop :=
  (∀ (c : Config) (n : Nat), (PlatformConfig.ofNumVoices? c n).isSome = true ↔ 1 ≤ n) ∧
  (∀ (c : Config) (n : Nat) (pc : PlatformConfig), PlatformConfig.ofNumVoices? c n = some pc →
    pc.voice = c ∧ pc.numVoices = n) ∧
  (∀ (pc : PlatformConfig) (inputs : Vector (List PortEdge) pc.numVoices) (k : Fin pc.numVoices),
    (Platform.reset pc inputs).voice k = State.resetWith pc.voice inputs[k]) ∧
  ∀ (pc : PlatformConfig) (p : Platform pc) (k j : Fin pc.numVoices),
    1 ≤ pc.numVoices ∧ (p.voice j).cfg = pc.voice ∧ (p.voice j).tblBuilt = p.tblBuilt ∧
    (∀ i, tableEntry (p.voice j).cfg i = tableEntry (p.voice k).cfg i) ∧
    ∀ (q : Platform pc) (op : Word), p.stepVoice k = .next q →
      (p.voice k).edges.head? = some (.command (encode (.construct op))) → (q.voice j).tblBuilt = true
end

