-- ==== Sys2Proof/Laws/Encoding.lean ====
section
/-!
SUPPORT. The fields of a command word (spec/30_encoding.md R74): putting them together and taking them apart.
-/

namespace Sys2Proof

theorem opcodeField_commandWord (opc : Byte) (op : Word) : opcodeField (commandWord opc op) = opc := by
  apply BitVec.eq_of_toNat_eq
  have := op.isLt
  have := opc.isLt
  simp only [opcodeField, commandWord, BitVec.extractLsb'_toNat, BitVec.toNat_append, Nat.shiftLeft_eq,
    Nat.shiftRight_eq_div_pow]
  rw [← Nat.shiftLeft_eq, ← Nat.shiftLeft_add_eq_or_of_lt op.isLt, Nat.shiftLeft_eq]
  omega

theorem operandField_commandWord (opc : Byte) (op : Word) : operandField (commandWord opc op) = op := by
  apply BitVec.eq_of_toNat_eq
  have := op.isLt
  have := opc.isLt
  simp only [operandField, commandWord, BitVec.extractLsb'_toNat, BitVec.toNat_append, Nat.shiftRight_zero]
  rw [← Nat.shiftLeft_add_eq_or_of_lt op.isLt, Nat.shiftLeft_eq]
  omega

theorem commandWord_fields (w : CmdWord) : commandWord (opcodeField w) (operandField w) = w := by
  apply BitVec.eq_of_toNat_eq
  have := w.isLt
  simp only [opcodeField, operandField, commandWord, BitVec.extractLsb'_toNat, BitVec.toNat_append,
    Nat.shiftRight_zero]
  rw [← Nat.shiftLeft_add_eq_or_of_lt (Nat.mod_lt _ (Nat.two_pow_pos _)), Nat.shiftLeft_eq,
    Nat.shiftRight_eq_div_pow]
  omega

end Sys2Proof
end

