-- ==== Sys2Proof/Laws/State.lean ====
section
/-!
SUPPORT. One lemma per field per update of the state, true by rfl, so that no proof unfolds a record update; the view of an
updated state; and what one step can do, said once.
-/

namespace Sys2Proof.Machine

/-! ### The view, field by field -/

@[simp] theorem view_fs (s : State) : s.view.fs = s.regs.fs.toNat := rfl
@[simp] theorem view_freq (s : State) : s.view.freq = s.regs.freq.toNat := rfl
@[simp] theorem view_inc (s : State) : s.view.inc = s.regs.inc.toNat := rfl
@[simp] theorem view_phase (s : State) : s.view.phase = s.regs.phase.toNat := rfl
@[simp] theorem view_cycleCount (s : State) : s.view.cycleCount = s.regs.cycleCount.toNat := rfl
@[simp] theorem view_wrap (s : State) : s.view.wrap = s.regs.wrap := rfl
@[simp] theorem view_gain (s : State) : s.view.gain = s.regs.gain.toNat := rfl
@[simp] theorem view_last (s : State) : s.view.last = s.regs.last.toInt := rfl
@[simp] theorem view_ill (s : State) : s.view.ill = s.regs.ill := rfl
@[simp] theorem view_tblBuilt (s : State) : s.view.tblBuilt = s.tblBuilt := rfl

/-- The view of any state, so of any record update. -/
theorem view_mk (c : Config) (r : Regs c) (b : Bool) (q : List Response) (es : List PortEdge) :
    (State.mk c r b q es).view =
      ⟨r.fs.toNat, r.freq.toNat, r.inc.toNat, r.phase.toNat, r.cycleCount.toNat, r.wrap, r.gain.toNat, r.last.toInt,
        r.ill, b⟩ :=
  rfl

/-! ### `respond` -/

@[simp] theorem respond_cfg (s : State) (v : Word) : (s.respond v).cfg = s.cfg := rfl
@[simp] theorem respond_edges (s : State) (v : Word) : (s.respond v).edges = s.edges := rfl
@[simp] theorem respond_tblBuilt (s : State) (v : Word) : (s.respond v).tblBuilt = s.tblBuilt := rfl
@[simp] theorem respond_view (s : State) (v : Word) : (s.respond v).view = s.view := rfl
@[simp] theorem respond_inFlight (s : State) (v : Word) :
    (s.respond v).inFlight = s.inFlight ++ [⟨s.cfg.rspLatency, v⟩] := rfl

/-! ### `raiseIllegalCommand` -/

@[simp] theorem raise_cfg (s : State) : s.raiseIllegalCommand.cfg = s.cfg := rfl
@[simp] theorem raise_edges (s : State) : s.raiseIllegalCommand.edges = s.edges := rfl
@[simp] theorem raise_inFlight (s : State) : s.raiseIllegalCommand.inFlight = s.inFlight := rfl
@[simp] theorem raise_tblBuilt (s : State) : s.raiseIllegalCommand.tblBuilt = s.tblBuilt := rfl
@[simp] theorem raise_view (s : State) : s.raiseIllegalCommand.view = { s.view with ill := true } := rfl

/-! ### `clock` and `pastEdge` -/

@[simp] theorem clock_cfg (s : State) : s.clock.cfg = s.cfg := rfl
@[simp] theorem clock_edges (s : State) : s.clock.edges = s.edges := rfl
@[simp] theorem clock_view (s : State) : s.clock.view = s.view := rfl
@[simp] theorem clock_inFlight (s : State) : s.clock.inFlight = clockResponses s.inFlight := rfl
@[simp] theorem pastEdge_cfg (s : State) : s.pastEdge.cfg = s.cfg := rfl
@[simp] theorem pastEdge_edges (s : State) : s.pastEdge.edges = s.edges.tail := rfl
@[simp] theorem pastEdge_view (s : State) : s.pastEdge.view = s.view := rfl
@[simp] theorem pastEdge_inFlight (s : State) : s.pastEdge.inFlight = s.inFlight := rfl

/-! ### The reset event and the reset state -/

@[simp] theorem resetEvent_cfg (s : State) : s.resetEvent.cfg = s.cfg := rfl
@[simp] theorem resetEvent_edges (s : State) : s.resetEvent.edges = s.edges := rfl
@[simp] theorem resetEvent_inFlight (s : State) : s.resetEvent.inFlight = [] := rfl
@[simp] theorem resetEvent_view (s : State) : s.resetEvent.view = View.reset := by
  simp [State.view, State.resetEvent, Regs.reset, View.reset]
@[simp] theorem resetWith_cfg (c : Config) (es : List PortEdge) : (State.resetWith c es).cfg = c := rfl
@[simp] theorem resetWith_edges (c : Config) (es : List PortEdge) : (State.resetWith c es).edges = es := rfl
@[simp] theorem resetWith_inFlight (c : Config) (es : List PortEdge) : (State.resetWith c es).inFlight = [] := rfl
@[simp] theorem resetWith_view (c : Config) (es : List PortEdge) : (State.resetWith c es).view = View.reset := by
  simp [State.view, State.resetWith, Regs.reset, View.reset]

/-! ### The next edge -/

@[simp] theorem nextEdge_nil {s : State} (h : s.edges = []) : s.nextEdge = PortEdge.idle := by simp [State.nextEdge, h]
@[simp] theorem nextEdge_cons {s : State} {e : PortEdge} {es : List PortEdge} (h : s.edges = e :: es) :
    s.nextEdge = e := by simp [State.nextEdge, h]
@[simp] theorem command_rst (w : CmdWord) : (PortEdge.command w).rst = false := rfl
@[simp] theorem command_accepts (w : CmdWord) : (PortEdge.command w).accepts = true := rfl
@[simp] theorem command_cmdWord (w : CmdWord) : (PortEdge.command w).cmdWord = w := rfl
@[simp] theorem idle_rst : PortEdge.idle.rst = false := rfl
@[simp] theorem idle_accepts : PortEdge.idle.accepts = false := rfl

theorem nextEdge_of_head {s : State} {e : PortEdge} (h : s.edges.head? = some e) : s.nextEdge = e := by
  simp [State.nextEdge, List.headD_eq_head?_getD, h]

/-! ### One step -/

theorem step_of_rst {s : State} (h : s.nextEdge.rst = true) : step s = .next s.pastEdge.resetEvent := by
  rw [step, if_pos h]

theorem step_of_accepts {s : State} (h : s.nextEdge.rst = false) (ha : s.nextEdge.accepts = true) :
    step s = exec (decode s.nextEdge.cmdWord) s.pastEdge.clock := by
  rw [step, if_neg (by simp [h]), if_pos ha]

theorem step_of_idle {s : State} (h : s.nextEdge.rst = false) (ha : s.nextEdge.accepts = false) :
    step s = .next s.pastEdge.clock := by
  rw [step, if_neg (by simp [h]), if_neg (by simp [ha])]

/-- Everything a step can do. -/
theorem step_cases {s t : State} (h : step s = .next t) :
    (s.nextEdge.rst = true ∧ t = s.pastEdge.resetEvent) ∨
    (s.nextEdge.rst = false ∧ s.nextEdge.accepts = true ∧
      exec (decode s.nextEdge.cmdWord) s.pastEdge.clock = .next t) ∨
    (s.nextEdge.rst = false ∧ s.nextEdge.accepts = false ∧ t = s.pastEdge.clock) := by
  cases hr : s.nextEdge.rst with
  | true =>
    rw [step_of_rst hr] at h
    cases h
    exact .inl ⟨rfl, rfl⟩
  | false =>
    cases ha : s.nextEdge.accepts with
    | true => exact .inr (.inl ⟨rfl, rfl, step_of_accepts hr ha ▸ h⟩)
    | false =>
      rw [step_of_idle hr ha] at h
      cases h
      exact .inr (.inr ⟨rfl, rfl, rfl⟩)

theorem run_succ {k : Nat} {s t : State} (h : step s = .next t) : core.run (k + 1) s = core.run k t := by
  simp only [Host.Core.run]
  rw [show core.step s = .next t from h]

end Sys2Proof.Machine
end

