-- ==== Sys2Proof/Laws/Ops.lean ====
section
/-!
SUPPORT. What each shared operation can do, said once: ranges of the arithmetic helpers of spec/41_phase_accumulator.md,
spec/42_wavetable.md and spec/43_oscillator.md, the effect of a tick, and the order of the responses owed.
-/

/-! ### Configurations -/

namespace Sys2Proof

theorem Config.phaseBits_le (c : Config) : c.phaseBits ≤ 32 := c.legal.2.2.2.1
theorem Config.tableBits_lt (c : Config) : c.tableBits < c.phaseBits := c.legal.2.2.1
theorem Config.tableBits_le (c : Config) : c.tableBits ≤ 16 := c.legal.2.1
theorem Config.one_le_tableBits (c : Config) : 1 ≤ c.tableBits := c.legal.1
theorem Config.two_le_sampleBits (c : Config) : 2 ≤ c.sampleBits := c.legal.2.2.2.2.1
theorem Config.sampleBits_le (c : Config) : c.sampleBits ≤ 32 := c.legal.2.2.2.2.2.1
theorem Config.one_le_gainFracBits (c : Config) : 1 ≤ c.gainFracBits := c.legal.2.2.2.2.2.2.1
theorem Config.gainFracBits_le (c : Config) : c.gainFracBits ≤ 16 := c.legal.2.2.2.2.2.2.2.1
theorem Config.one_le_rspLatency (c : Config) : 1 ≤ c.rspLatency := c.legal.2.2.2.2.2.2.2.2

theorem Config.one_le_fracBits (c : Config) : 1 ≤ c.fracBits := Nat.le_sub_of_add_le' c.tableBits_lt

theorem Config.fracBits_add_tableBits (c : Config) : c.fracBits + c.tableBits = c.phaseBits :=
  Nat.sub_add_cancel c.tableBits_lt.le

theorem Config.phaseRange (c : Config) : 2 ^ c.fracBits * c.tableSize = 2 ^ c.phaseBits := by
  rw [Config.tableSize, ← pow_add, c.fracBits_add_tableBits]

theorem Config.peak_lt (c : Config) : c.peak < 2 ^ (c.sampleBits - 1) :=
  Nat.sub_lt (Nat.two_pow_pos _) Nat.one_pos

theorem Config.peak_lt_two_pow (c : Config) : c.peak < 2 ^ 31 :=
  c.peak_lt.trans_le (Nat.pow_le_pow_right (by norm_num) (by have := c.sampleBits_le; omega))

end Sys2Proof

namespace Sys2Proof.Machine

/-! ### The frequency -/

theorem clampFreq_zero (f : Int) : clampFreq f 0 = 0 := rfl

theorem clampFreq_eq (f : Int) (fs : Nat) :
    clampFreq f fs =
      if fs = 0 ∨ f < 0 then 0 else if (2 ^ 15 * fs : Nat) ≤ f then 2 ^ 15 * fs - 1 else f.toNat := by
  unfold clampFreq
  by_cases h0 : fs = 0
  · rw [if_pos h0, if_pos (Or.inl h0)]
  · by_cases h1 : f < 0
    · rw [if_neg h0, if_pos h1, if_pos (Or.inr h1)]
    · rw [if_neg h0, if_neg h1, if_neg (by omega : ¬(fs = 0 ∨ f < 0))]

theorem clampFreq_lt {f : Int} {fs : Nat} (h : fs ≠ 0) : clampFreq f fs < fs * 2 ^ 15 := by
  have hp : 0 < fs * 2 ^ 15 := Nat.mul_pos (Nat.pos_of_ne_zero h) (by norm_num)
  unfold clampFreq
  split_ifs <;> omega

theorem clampFreq_lt_two_pow {f : Int} (hf : f < 2 ^ 31) (fs : Nat) : clampFreq f fs < 2 ^ 31 := by
  unfold clampFreq
  split_ifs <;> omega

theorem incOf_zero (w fc : Nat) : incOf w fc 0 = 0 := rfl

theorem incOf_zero_freq (w fs : Nat) : incOf w 0 fs = 0 := by
  unfold incOf
  split_ifs with h
  · rfl
  · rw [Nat.zero_mul, Nat.zero_add]
    exact Nat.div_eq_of_lt (Nat.mul_lt_mul_of_pos_left (by norm_num) (Nat.pos_of_ne_zero h))

theorem incOf_le {w fc fs : Nat} (hw : 1 ≤ w) (h : fc < fs * 2 ^ 15) : incOf w fc fs ≤ 2 ^ (w - 1) := by
  obtain ⟨v, rfl⟩ := Nat.exists_eq_add_of_le' hw
  unfold incOf
  split_ifs with h0
  · exact Nat.zero_le _
  · rw [Nat.add_sub_cancel]
    have hp : 0 < fs * 2 ^ 17 := by positivity
    refine Nat.le_of_lt_succ ((Nat.div_lt_iff_lt_mul hp).2 ?_)
    have h2 : fc * 2 ^ (v + 1 + 1) ≤ fs * 2 ^ 15 * 2 ^ (v + 1 + 1) := Nat.mul_le_mul_right _ h.le
    have h3 : fs * 2 ^ 15 * 2 ^ (v + 1 + 1) = 2 ^ v * (fs * 2 ^ 17) := by ring
    have h4 : fs * 2 ^ 16 < fs * 2 ^ 17 := Nat.mul_lt_mul_of_pos_left (by norm_num) (Nat.pos_of_ne_zero h0)
    rw [Nat.succ_mul]
    omega

theorem incOf_lt {w : Nat} (hw : 1 ≤ w) (f : Int) (fs : Nat) : incOf w (clampFreq f fs) fs < 2 ^ w := by
  rcases eq_or_ne fs 0 with rfl | h
  · exact Nat.two_pow_pos w
  · exact (incOf_le hw (clampFreq_lt h)).trans_lt (Nat.pow_lt_pow_right (by norm_num) (by omega))

/-! ### The phase -/

theorem resetPosition_lt (w p : Nat) : resetPosition w p < 2 ^ w := Nat.mod_lt _ (Nat.two_pow_pos _)

theorem resetPosition_eq (w p : Nat) : resetPosition w p = (p * 2 ^ (w + 1) + 2 ^ 32) / 2 ^ 33 % 2 ^ w := by
  rw [resetPosition, Nat.add_comm]

theorem countWrap_toNat (n : Byte) (b : Bool) : (countWrap n b).toNat = (n.toNat + b.toNat) % 256 := by
  cases b
  · rw [countWrap, if_neg (by decide)]
    exact (Nat.mod_eq_of_lt n.isLt).symm
  · rw [countWrap, if_pos rfl, BitVec.toNat_add]
    rfl

theorem tickStep_phase {c : Config} (r : Regs c) :
    (tickStep r).phase.toNat = (r.phase.toNat + r.inc.toNat) % 2 ^ c.phaseBits := by
  simp [tickStep, BitVec.toNat_add]

theorem tickStep_wrap {c : Config} (r : Regs c) :
    (tickStep r).wrap = decide ((r.phase.toNat + r.inc.toNat) % 2 ^ c.phaseBits < r.inc.toNat) := by
  simp [tickStep, wrapTest, BitVec.toNat_add]

theorem tickStep_cycleCount {c : Config} (r : Regs c) :
    (tickStep r).cycleCount.toNat = (r.cycleCount.toNat + (tickStep r).wrap.toNat) % 256 :=
  countWrap_toNat _ _

@[simp] theorem tickStep_inc {c : Config} (r : Regs c) : (tickStep r).inc = r.inc := rfl
@[simp] theorem tickStep_freq {c : Config} (r : Regs c) : (tickStep r).freq = r.freq := rfl
@[simp] theorem tickStep_fs {c : Config} (r : Regs c) : (tickStep r).fs = r.fs := rfl
@[simp] theorem tickStep_gain {c : Config} (r : Regs c) : (tickStep r).gain = r.gain := rfl
@[simp] theorem tickStep_last {c : Config} (r : Regs c) : (tickStep r).last = r.last := rfl
@[simp] theorem tickStep_ill {c : Config} (r : Regs c) : (tickStep r).ill = r.ill := rfl

/-! ### Responses -/

theorem responseValue_eq {n : Nat} (v : BitVec n) : responseValue v = BitVec.ofNat 32 v.toNat := by
  apply BitVec.eq_of_toNat_eq
  simp [responseValue]

/-- A response owed for more than one cycle stays owed, one cycle nearer. -/
theorem mem_clockResponses {l : List Response} {q : Response} (h : q ∈ l) (hq : 1 < q.due) :
    (⟨q.due - 1, q.word⟩ : Response) ∈ clockResponses l := by
  cases l with
  | nil => simp at h
  | cons r rs =>
    rw [clockResponses, List.mem_map]
    refine ⟨q, ?_, rfl⟩
    split_ifs with h1
    · rcases List.mem_cons.1 h with rfl | h
      · omega
      · exact h
    · exact h

/-- A clock cycle keeps the order of the owed responses, and leaves room for one more at the end. -/
theorem clockResponses_inv {l : List Response} {n : Nat} (hp : l.Pairwise fun a b => a.due < b.due)
    (hd : ∀ q ∈ l, 1 ≤ q.due ∧ q.due ≤ n) :
    (clockResponses l).Pairwise (fun a b => a.due < b.due) ∧ ∀ q ∈ clockResponses l, 1 ≤ q.due ∧ q.due + 1 ≤ n := by
  cases l with
  | nil => simp [clockResponses]
  | cons r rs =>
    obtain ⟨hr, hrs⟩ := List.pairwise_cons.1 hp
    have h0 := hd r List.mem_cons_self
    rw [clockResponses]
    split_ifs with h1
    · refine ⟨List.pairwise_map.2 (hrs.imp_of_mem fun {a b} ha _ hab => ?_), fun q hq => ?_⟩
      · have := hr a ha
        dsimp only
        omega
      · obtain ⟨a, ha, rfl⟩ := List.mem_map.1 hq
        have := hr a ha
        have := hd a (List.mem_cons_of_mem _ ha)
        dsimp only
        omega
    · have big : ∀ a ∈ r :: rs, 2 ≤ a.due := by
        intro a ha
        rcases List.mem_cons.1 ha with rfl | ha
        · omega
        · have := hr a ha
          omega
      refine ⟨List.pairwise_map.2 (hp.imp_of_mem fun {a b} ha _ hab => ?_), fun q hq => ?_⟩
      · have := big a ha
        dsimp only
        omega
      · obtain ⟨a, ha, rfl⟩ := List.mem_map.1 hq
        have := big a ha
        have := hd a ha
        dsimp only
        omega

/-! ### The gain -/

theorem clamp_toNat (x : Int) :
    (clamp x 0 (2 ^ 16)).toNat = if x < 0 then 0 else if 65536 < x then 65536 else x.toNat := by
  unfold clamp
  split_ifs <;> omega

theorem clamp_mem {x lo hi : Int} (h : lo ≤ hi) : lo ≤ clamp x lo hi ∧ clamp x lo hi ≤ hi := by
  unfold clamp
  split_ifs <;> omega

theorem quantizeGain_le {gf : Nat} (h1 : 1 ≤ gf) (h2 : gf ≤ 16) (g : Int) : quantizeGain gf g ≤ 2 ^ gf := by
  have hc := clamp_mem (x := g) (show (0 : Int) ≤ 2 ^ 16 by norm_num)
  unfold quantizeGain
  generalize clamp g 0 (2 ^ 16) = gc at hc
  have hg : gc.toNat ≤ 2 ^ 16 := by omega
  dsimp only
  split_ifs with h
  · subst h; exact hg
  · refine Nat.le_of_lt_succ ((Nat.div_lt_iff_lt_mul (Nat.two_pow_pos _)).2 ?_)
    have e1 : 2 ^ gf * 2 ^ (16 - gf) = 2 ^ 16 := by rw [← pow_add]; congr 1; omega
    have e2 : 2 ^ (15 - gf) < 2 ^ (16 - gf) := Nat.pow_lt_pow_right (by norm_num) (by omega)
    rw [Nat.succ_mul]
    omega

/-! ### Rounded shifts -/

/-- Bias and arithmetic shift are rounding to the nearest, halves up: the one integer `q` with `2a` in `[(2q-1)2^k, (2q+1)2^k)`. -/
theorem shiftRight_bias {a : Int} {k : Nat} (hk : 1 ≤ k) (q : Int) :
    shiftRight (a + 2 ^ (k - 1)) k = q ↔ (2 * q - 1) * 2 ^ k ≤ 2 * a ∧ 2 * a < (2 * q + 1) * 2 ^ k := by
  obtain ⟨j, rfl⟩ := Nat.exists_eq_add_of_le' hk
  have hp : (0 : Int) < 2 ^ j := by positivity
  rw [shiftRight, floorDiv, Nat.add_sub_cancel]
  push_cast
  rw [Int.ediv_eq_iff_of_pos (by positivity), pow_succ]
  constructor <;> rintro ⟨h1, h2⟩ <;> constructor <;> linarith

/-- The interpolation stays between its nodes (R133). -/
theorem interpolate_between {fb : Nat} (hfb : 1 ≤ fb) (e0 e1 : Int) {fr : Nat} (hfr : fr < 2 ^ fb) :
    min e0 e1 ≤ interpolate fb e0 e1 fr ∧ interpolate fb e0 e1 fr ≤ max e0 e1 := by
  obtain ⟨q, hq⟩ : ∃ q, q = shiftRight ((e1 - e0) * fr + 2 ^ (fb - 1)) fb := ⟨_, rfl⟩
  obtain ⟨h1, h2⟩ := (shiftRight_bias hfb q).1 hq.symm
  have hf0 : (0 : Int) ≤ fr := Int.natCast_nonneg fr
  have hf1 : (fr : Int) + 1 ≤ 2 ^ fb := by exact_mod_cast hfr
  rw [interpolate, ← hq]
  generalize (2 : Int) ^ fb = p at h1 h2 hf1
  generalize (fr : Int) = f at h1 h2 hf0 hf1
  rcases le_total e0 e1 with h | h
  · rw [min_eq_left h, max_eq_right h]
    have g0 : 0 ≤ q := by by_contra hc; nlinarith [mul_nonneg (sub_nonneg.2 h) hf0]
    have g1 : q ≤ e1 - e0 := by by_contra hc; nlinarith [mul_nonneg (sub_nonneg.2 h) (by linarith : 0 ≤ p - 1 - f)]
    constructor <;> linarith
  · rw [min_eq_right h, max_eq_left h]
    have g0 : q ≤ 0 := by by_contra hc; nlinarith [mul_nonneg (sub_nonneg.2 h) hf0]
    have g1 : e1 - e0 ≤ q := by by_contra hc; nlinarith [mul_nonneg (sub_nonneg.2 h) (by linarith : 0 ≤ p - 1 - f)]
    constructor <;> linarith

/-- With a rising segment the interpolation rises with the fraction, with a falling one it falls (R133). -/
theorem interpolate_mono {fb : Nat} {e0 e1 : Int} {f f' : Nat} (hf : f ≤ f') :
    (e0 ≤ e1 → interpolate fb e0 e1 f ≤ interpolate fb e0 e1 f') ∧
    (e1 ≤ e0 → interpolate fb e0 e1 f' ≤ interpolate fb e0 e1 f) := by
  have hp : (0 : Int) < ((2 ^ fb : Nat) : Int) := by positivity
  unfold interpolate shiftRight floorDiv
  constructor <;> intro he <;> refine (Int.add_le_add_iff_left _).2 (Int.ediv_le_ediv hp ?_) <;> nlinarith

/-- A gain of at most 1.0 does not enlarge a sample (R152). -/
theorem gainMul_bounded {gf : Nat} (h1 : 1 ≤ gf) (v : Int) {g : Nat} (hg : g ≤ 2 ^ gf) :
    -|v| ≤ gainMul gf v g ∧ gainMul gf v g ≤ |v| := by
  obtain ⟨q, hq⟩ : ∃ q, q = gainMul gf v g := ⟨_, rfl⟩
  obtain ⟨b1, b2⟩ := (shiftRight_bias h1 q).1 hq.symm
  have hg0 : (0 : Int) ≤ g := Int.natCast_nonneg g
  have hg1 : (g : Int) ≤ 2 ^ gf := by exact_mod_cast hg
  rw [← hq]
  generalize (2 : Int) ^ gf = p at b1 b2 hg1
  generalize (g : Int) = x at b1 b2 hg0 hg1
  rcases abs_cases v with ⟨ha, hv⟩ | ⟨ha, hv⟩ <;> rw [ha]
  · constructor <;> by_contra hc <;> nlinarith [mul_nonneg hv hg0, mul_nonneg hv (sub_nonneg.2 hg1)]
  · have hv' : 0 ≤ -v := by linarith
    constructor <;> by_contra hc <;> nlinarith [mul_nonneg hv' hg0, mul_nonneg hv' (sub_nonneg.2 hg1)]

end Sys2Proof.Machine
end

