-- ==== Sys2Proof/Laws/PerInstr.lean ====
section
/-!
SUPPORT. The family `Fields`, one lemma per constructor: decoding a well-formed command's own opcode and operand fields gives
the command back (spec/30_encoding.md R78, R81).
-/

namespace Sys2Proof.Laws.Fields

/-- The fields of a well-formed command decode to it. -/
def Statement (i : Instr) : Prop := i.wellFormed = true → decodeFields i.opcode i.operand = i

theorem decodeFields_reserved {opc : Byte} (h : 0x10 ≤ opc.toNat) (op : Word) :
    decodeFields opc op =
      if opc.toNat < 0x20 then .reserved10to1F opc op
      else if opc.toNat < 0x40 then .reserved20to3F opc op
      else if opc.toNat < 0x80 then .reserved40to7F opc op
      else .reserved80toFF opc op := by
  unfold decodeFields
  split <;> first | omega | rfl

theorem of_opcodeIn {lo hi : Nat} {opc : Byte} (h : opcodeIn lo hi opc = true) : lo ≤ opc.toNat ∧ opc.toNat ≤ hi := by
  simpa [opcodeIn] using h

theorem nop (op : Word) : Statement (.nop op) := fun _ => rfl
theorem construct (op : Word) : Statement (.construct op) := fun _ => rfl
theorem setFreq (op : Word) : Statement (.setFreq op) := fun _ => rfl
theorem setGain (op : Word) : Statement (.setGain op) := fun _ => rfl
theorem process (op : Word) : Statement (.process op) := fun _ => rfl
theorem getLast (op : Word) : Statement (.getLast op) := fun _ => rfl
theorem getPhase (op : Word) : Statement (.getPhase op) := fun _ => rfl
theorem resetPhase (op : Word) : Statement (.resetPhase op) := fun _ => rfl
theorem getFreq (op : Word) : Statement (.getFreq op) := fun _ => rfl
theorem getEven (op : Word) : Statement (.getEven op) := fun _ => rfl
theorem getAlt (op : Word) : Statement (.getAlt op) := fun _ => rfl
theorem tick (op : Word) : Statement (.tick op) := fun _ => rfl
theorem lookup (op : Word) : Statement (.lookup op) := fun _ => rfl
theorem getStatus (op : Word) : Statement (.getStatus op) := fun _ => rfl
theorem getGain (op : Word) : Statement (.getGain op) := fun _ => rfl
theorem getInc (op : Word) : Statement (.getInc op) := fun _ => rfl

theorem reserved10to1F (opc : Byte) (op : Word) : Statement (.reserved10to1F opc op) := fun h => by
  obtain ⟨h1, h2⟩ := of_opcodeIn h
  rw [Instr.opcode, Instr.operand, decodeFields_reserved h1, if_pos (by omega)]

theorem reserved20to3F (opc : Byte) (op : Word) : Statement (.reserved20to3F opc op) := fun h => by
  obtain ⟨h1, h2⟩ := of_opcodeIn h
  rw [Instr.opcode, Instr.operand, decodeFields_reserved (by omega), if_neg (by omega), if_pos (by omega)]

theorem reserved40to7F (opc : Byte) (op : Word) : Statement (.reserved40to7F opc op) := fun h => by
  obtain ⟨h1, h2⟩ := of_opcodeIn h
  rw [Instr.opcode, Instr.operand, decodeFields_reserved (by omega), if_neg (by omega), if_neg (by omega),
    if_pos (by omega)]

theorem reserved80toFF (opc : Byte) (op : Word) : Statement (.reserved80toFF opc op) := fun h => by
  obtain ⟨h1, _⟩ := of_opcodeIn h
  rw [Instr.opcode, Instr.operand, decodeFields_reserved (by omega), if_neg (by omega), if_neg (by omega),
    if_neg (by omega)]

end Sys2Proof.Laws.Fields
end

