-- ==== Sys2Proof/Laws/Platform.lean ====
section
/-!
SUPPORT. A voice and its state are two views of one thing, and what one clock edge of one voice does to a platform, said
once.
-/

namespace Sys2Proof.Machine

/-! ### A voice and its state -/

@[simp] theorem asState_cfg {c : Config} (v : Voice c) (b : Bool) : (v.asState b).cfg = c := rfl
@[simp] theorem asState_tblBuilt {c : Config} (v : Voice c) (b : Bool) : (v.asState b).tblBuilt = b := rfl
@[simp] theorem asState_inFlight {c : Config} (v : Voice c) (b : Bool) : (v.asState b).inFlight = v.inFlight := rfl
@[simp] theorem asState_edges {c : Config} (v : Voice c) (b : Bool) : (v.asState b).edges = v.edges := rfl

@[simp] theorem toVoice_asState {c : Config} (v : Voice c) (b : Bool) : (v.asState b).toVoice rfl = v := rfl

@[simp] theorem asState_toVoice {c : Config} (s : State) (h : s.cfg = c) : (s.toVoice h).asState s.tblBuilt = s := by
  subst h; rfl

@[simp] theorem toVoice_tblBuilt {c : Config} (s : State) (b : Bool) (h : s.cfg = c) :
    ({ s with tblBuilt := b } : State).toVoice h = s.toVoice h := by
  subst h; rfl

/-! ### A platform's voices -/

@[simp] theorem voice_cfg {pc : PlatformConfig} (p : Platform pc) (k : Fin pc.numVoices) : (p.voice k).cfg = pc.voice := rfl
@[simp] theorem voice_tblBuilt {pc : PlatformConfig} (p : Platform pc) (k : Fin pc.numVoices) :
    (p.voice k).tblBuilt = p.tblBuilt := rfl

@[simp] theorem voice_set_self {pc : PlatformConfig} (p : Platform pc) (k : Fin pc.numVoices) (v : Voice pc.voice) (b : Bool) :
    (⟨b, p.voices.set k v⟩ : Platform pc).voice k = v.asState b := by
  simp [Platform.voice]

@[simp] theorem voices_set_of_ne {pc : PlatformConfig} (p : Platform pc) {k j : Fin pc.numVoices} (h : j ≠ k)
    (v : Voice pc.voice) : (p.voices.set k v)[j] = p.voices[j] :=
  Vector.getElem_set_ne _ _ (fun e => h (Fin.ext e.symm))

theorem reset_voice (pc : PlatformConfig) (inputs : Vector (List PortEdge) pc.numVoices) (k : Fin pc.numVoices) :
    (Platform.reset pc inputs).voice k = State.resetWith pc.voice inputs[k] := by
  simp [Platform.reset, Platform.voice, Voice.asState, State.resetWith]

/-! ### One clock edge of one voice -/

/-- Where the voice's own step answers `t`, the voice becomes `t`'s, the shared bit `t`'s, and nothing else changes. -/
theorem stepVoice_eq {pc : PlatformConfig} {p : Platform pc} {k : Fin pc.numVoices} {t : State}
    (h : step (p.voice k) = .next t) :
    p.stepVoice k = .next ⟨t.tblBuilt, p.voices.set k (t.toVoice (voice_step_cfg h))⟩ := by
  unfold Platform.stepVoice
  split
  case h_1 u hu => cases hu.symm.trans h; rfl
  all_goals rename_i hu; cases hu.symm.trans h

/-- Everything a clock edge of voice `k` can do. -/
theorem stepVoice_cases {pc : PlatformConfig} {p q : Platform pc} {k : Fin pc.numVoices} (h : p.stepVoice k = .next q) :
    ∃ (t : State) (ht : step (p.voice k) = .next t), q = ⟨t.tblBuilt, p.voices.set k (t.toVoice (voice_step_cfg ht))⟩ := by
  obtain ⟨o, ho⟩ : ∃ o, step (p.voice k) = o := ⟨_, rfl⟩
  match o, ho with
  | .next t, ht => exact ⟨t, ht, by rw [stepVoice_eq ht] at h; cases h; rfl⟩
  | .refused r, ht =>
    unfold Platform.stepVoice at h
    split at h
    case h_3 => cases h
    all_goals rename_i hu; cases hu.symm.trans ht

end Sys2Proof.Machine
end

