-- ==== Sys2Proof/Laws/Sine.lean ====
section
/-!
SUPPORT. The sine: the Taylor polynomial of Machine/Sine.lean is the real sine to 17 decimals, so a table sample is within
a hair of half a unit of `peak * sin` (spec/20_memory.md R53). Laws/SineTable.lean removes the hair.
-/

namespace Sys2Proof.Machine
open Finset

/-- The first `n` terms of the sine series. -/
noncomputable def sineSum (x : ℝ) (n : ℕ) : ℝ := ∑ k ∈ range n, (-1) ^ k * x ^ (2 * k + 1) / (2 * k + 1).factorial

theorem sineDen_pos {b : ℕ} (hb : 0 < b) (n : ℕ) : 0 < sineDen b n :=
  Nat.mul_pos (Nat.pow_pos hb) (Nat.factorial_pos _)

theorem sineNum_div_sineDen (a : ℕ) {b : ℕ} (hb : 0 < b) (n : ℕ) :
    (sineNum a b n : ℝ) / sineDen b n = sineSum (a / b) (n + 1) := by
  have hb' : (b : ℝ) ≠ 0 := by positivity
  induction n with
  | zero => simp [sineNum, sineDen, sineSum]
  | succ n ih =>
    rw [sineSum, sum_range_succ, ← sineSum, ← ih]
    have h1 : (sineDen b (n + 1) : ℝ) = sineDen b n * ((2 * n + 2) * (2 * n + 3) * b ^ 2) := by
      simp only [sineDen, show 2 * (n + 1) + 1 = (2 * n + 1) + 1 + 1 by ring, Nat.factorial_succ]
      push_cast
      ring
    have h2 : (sineDen b (n + 1) : ℝ) = (b : ℝ) ^ (2 * n + 3) * ((2 * (n + 1) + 1).factorial : ℝ) := by
      simp [sineDen, show 2 * (n + 1) + 1 = 2 * n + 3 by ring]
    have h0 : (sineDen b n : ℝ) ≠ 0 := by exact_mod_cast (sineDen_pos hb n).ne'
    have h3 : ((2 * n + 2) * (2 * n + 3) * b ^ 2 : ℝ) ≠ 0 := by positivity
    have h4 : (((2 * (n + 1) + 1).factorial : ℕ) : ℝ) ≠ 0 := by positivity
    rw [sineNum]
    push_cast
    rw [add_div]
    congr 1
    · rw [h1, mul_div_mul_right _ _ h3]
    · rw [h2, div_pow, show 2 * (n + 1) + 1 = 2 * n + 3 by ring]
      field_simp

theorem im_exp_partial_sum (x : ℝ) (n : ℕ) :
    (∑ m ∈ range (2 * n), ((x : ℂ) * Complex.I) ^ m / (m.factorial : ℂ)).im = sineSum x n := by
  induction n with
  | zero => simp [sineSum]
  | succ n ih =>
    have hI : ((x : ℂ) * Complex.I) ^ (2 * n) = (((-1) ^ n * x ^ (2 * n) : ℝ) : ℂ) := by
      rw [mul_pow, pow_mul Complex.I, Complex.I_sq]
      push_cast
      ring
    rw [show 2 * (n + 1) = 2 * n + 1 + 1 by ring, sum_range_succ, sum_range_succ, Complex.add_im, Complex.add_im, ih,
      sineSum, sineSum, sum_range_succ, hI, pow_succ, hI]
    have h1 : ((((-1) ^ n * x ^ (2 * n) : ℝ) : ℂ) / ((2 * n).factorial : ℂ)).im = 0 := by
      rw [show ((2 * n).factorial : ℂ) = (((2 * n).factorial : ℝ) : ℂ) by simp, ← Complex.ofReal_div, Complex.ofReal_im]
    have h2 : ((((-1) ^ n * x ^ (2 * n) : ℝ) : ℂ) * (x * Complex.I) / ((2 * n + 1).factorial : ℂ)).im
        = (-1) ^ n * x ^ (2 * n + 1) / (2 * n + 1).factorial := by
      rw [show (((-1) ^ n * x ^ (2 * n) : ℝ) : ℂ) * (x * Complex.I) / ((2 * n + 1).factorial : ℂ)
        = (((-1) ^ n * x ^ (2 * n + 1) / (2 * n + 1).factorial : ℝ) : ℂ) * Complex.I by push_cast; ring]
      rw [Complex.im_ofReal_mul, Complex.I_im, mul_one]
    rw [h1, h2]
    ring

/-- Twelve terms give the sine of an angle of the first quarter turn to 18 decimals. -/
theorem abs_sin_sub_sineSum_le {x : ℝ} (h0 : 0 ≤ x) (h1 : x ≤ 1.6) : |Real.sin x - sineSum x 12| ≤ 1 / 10 ^ 18 := by
  have hn : ‖(x : ℂ) * Complex.I‖ = x := by simp [abs_of_nonneg h0]
  have hb := Complex.exp_bound' (x := x * Complex.I) (n := 2 * 12) (by rw [hn]; norm_num; linarith)
  have him := (Complex.abs_im_le_norm _).trans hb
  rw [Complex.sub_im, im_exp_partial_sum, Complex.exp_ofReal_mul_I_im, hn] at him
  refine him.trans ?_
  have : x ^ (2 * 12) ≤ 1.6 ^ (2 * 12) := pow_le_pow_left₀ h0 h1 _
  calc x ^ (2 * 12) / (2 * 12).factorial * 2 ≤ 1.6 ^ (2 * 12) / (2 * 12).factorial * 2 := by gcongr
    _ ≤ 1 / 10 ^ 18 := by norm_num [Nat.factorial]

theorem pi_close : |(piDigits : ℝ) / 10 ^ 20 - Real.pi| ≤ 1 / 10 ^ 20 := by
  have h1 := Real.pi_gt_d20
  have h2 := Real.pi_lt_d20
  rw [abs_le]
  norm_num [piDigits] at *
  constructor <;> linarith

/-- The turnAngle `m/65536` of a turn. -/
noncomputable def turnAngle (m : ℕ) : ℝ := Real.pi * m / 32768

theorem turnAngle_bounds {m : ℕ} (hm : m ≤ 16384) : 0 ≤ turnAngle m ∧ turnAngle m ≤ Real.pi / 2 := by
  have h : (m : ℝ) ≤ 16384 := by exact_mod_cast hm
  have hp := Real.pi_pos
  unfold turnAngle
  constructor
  · positivity
  · rw [div_le_div_iff₀ (by norm_num) (by norm_num)]; nlinarith

/-- The rational number the model rounds is the sine to 17 decimals. -/
theorem taylor_close {m : ℕ} (hm : m ≤ 16384) :
    |(sineNum (piDigits * m) (32768 * 10 ^ 20) 11 : ℝ) / sineDen (32768 * 10 ^ 20) 11 - Real.sin (turnAngle m)| ≤ 2 / 10 ^ 18 := by
  have hm' : (m : ℝ) ≤ 16384 := by exact_mod_cast hm
  rw [sineNum_div_sineDen _ (by norm_num)]
  set x : ℝ := ((piDigits * m : ℕ) : ℝ) / ((32768 * 10 ^ 20 : ℕ) : ℝ) with hx
  have hxe : x = piDigits / 10 ^ 20 * m / 32768 := by rw [hx]; push_cast; field_simp; ring
  have hxa : |x - turnAngle m| ≤ 1 / 10 ^ 18 := by
    have : x - turnAngle m = (piDigits / 10 ^ 20 - Real.pi) * (m / 32768) := by rw [hxe, turnAngle]; ring
    rw [this, abs_mul, abs_of_nonneg (by positivity : (0 : ℝ) ≤ m / 32768)]
    calc _ ≤ 1 / 10 ^ 20 * (m / 32768 : ℝ) := by gcongr; exact pi_close
      _ ≤ 1 / 10 ^ 18 := by linarith
  have h0 : 0 ≤ x := by positivity
  have h1 : x ≤ 1.6 := by
    have := turnAngle_bounds hm
    have hp := Real.pi_lt_d4
    have := (abs_le.1 hxa).2
    norm_num at *
    linarith
  have h2 := abs_sin_sub_sineSum_le h0 h1
  have h3 := (Real.abs_sin_sub_sin_le x (turnAngle m)).trans hxa
  rw [abs_le] at *
  constructor <;> linarith [h2.1, h2.2, h3.1, h3.2]

/-- What rounding to the nearest integer gives. -/
theorem floorDiv_round_close (a : Int) {b : Nat} (hb : 0 < b) (p : ℕ) :
    |(floorDiv (2 * p * a + b) (2 * b) : ℝ) - p * (a / b)| ≤ 1 / 2 := by
  have hb' : (0 : ℝ) < b := by exact_mod_cast hb
  have hbz : (0 : ℤ) < 2 * b := by exact_mod_cast (by omega : 0 < 2 * b)
  have h1 := Int.mul_ediv_self_le (x := 2 * p * a + b) hbz.ne'
  have h2 := Int.lt_mul_ediv_self_add (x := 2 * p * a + b) hbz
  have h1' : (2 * b : ℝ) * ((2 * p * a + b) / (2 * b) : ℤ) ≤ 2 * p * a + b := by exact_mod_cast h1
  have h2' : (2 * p * a + b : ℝ) < 2 * b * ((2 * p * a + b) / (2 * b) : ℤ) + 2 * b := by exact_mod_cast h2
  have he : floorDiv (2 * p * a + b) (2 * b) = (2 * p * a + b) / (2 * b) := by simp [floorDiv]
  rw [he, abs_le]
  have h3 : (p : ℝ) * (a / b) = (2 * p * a) / (2 * b) := by field_simp
  rw [h3]
  constructor
  · rw [neg_le_sub_iff_le_add, div_le_iff₀ (by positivity)]; nlinarith
  · rw [sub_le_iff_le_add, ← sub_le_iff_le_add', le_div_iff₀ (by positivity)]; nlinarith

theorem quarterSample_close (p : ℕ) {m : ℕ} (hm : m ≤ 16384) :
    |(quarterSample p m : ℝ) - p * Real.sin (turnAngle m)| ≤ 1 / 2 + p * (2 / 10 ^ 18) := by
  have h1 := floorDiv_round_close (sineNum (piDigits * m) (32768 * 10 ^ 20) 11)
    (sineDen_pos (b := 32768 * 10 ^ 20) (by norm_num) 11) p
  have h2 := mul_le_mul_of_nonneg_left (taylor_close hm) (Nat.cast_nonneg (α := ℝ) p)
  rw [← abs_of_nonneg (Nat.cast_nonneg (α := ℝ) p), ← abs_mul, mul_sub, abs_of_nonneg (Nat.cast_nonneg (α := ℝ) p)] at h2
  unfold quarterSample
  rw [abs_le] at *
  constructor <;> linarith [h1.1, h1.2, h2.1, h2.2]

theorem quarterSample_bounds {p m : ℕ} (hp : p < 2 ^ 31) (hm : m ≤ 16384) :
    0 ≤ quarterSample p m ∧ quarterSample p m ≤ p := by
  have h := abs_le.1 (quarterSample_close p hm)
  have hp' : (p : ℝ) ≤ 2 ^ 31 := by exact_mod_cast hp.le
  have ha := turnAngle_bounds hm
  have hs0 : 0 ≤ Real.sin (turnAngle m) := Real.sin_nonneg_of_nonneg_of_le_pi ha.1 (by linarith [Real.pi_pos])
  have hs1 := mul_le_mul_of_nonneg_left (Real.sin_le_one (turnAngle m)) (Nat.cast_nonneg (α := ℝ) p)
  have hs2 := mul_nonneg (Nat.cast_nonneg (α := ℝ) p) hs0
  have he : (p : ℝ) * (2 / 10 ^ 18) < 1 / 2 := by linarith
  constructor
  · have : (-1 : ℝ) < quarterSample p m := by linarith [h.1]
    have : (-1 : ℤ) < quarterSample p m := by exact_mod_cast this
    omega
  · have : (quarterSample p m : ℝ) < p + 1 := by linarith [h.2]
    have : quarterSample p m < p + 1 := by exact_mod_cast this
    omega

end Sys2Proof.Machine
end

