-- ==== Sys2Proof/Laws/SineFixed.lean ====
section
/-!
SUPPORT. A fixed-point sine that the kernel evaluates fast, and its error. Laws/SineTable.lean runs it on all 16385 angles of
a quarter turn.
-/

namespace Sys2Proof.Machine
open Finset

/-! ### A fixed-point sine

Values are in units of 2^-72. -/
/-- 1/65536 of a turn, in radians, rounded down. -/
def angleStep : Nat := 452751216129820177

/-- The tail of the sine series in nested form, after `n` steps from its end, at the square `X2` of an angle. -/
def fxTail (X2 : Nat) : Nat → Nat
  | 0 => 2 ^ 72
  | n + 1 => 2 ^ 72 - X2 * fxTail X2 n / ((23 - 2 * n) * (22 - 2 * n) * 2 ^ 144)

/-- The same on real numbers. -/
noncomputable def sineTail (y : ℝ) : ℕ → ℝ
  | 0 => 1
  | n + 1 => 1 - y * sineTail y n / ((23 - 2 * n) * (22 - 2 * n))

theorem mul_sineTail_eq_sineSum (x : ℝ) : x * sineTail (x * x) 11 = sineSum x 12 := by
  simp only [sineTail, sineSum, sum_range_succ, sum_range_zero, Nat.factorial]
  norm_num
  ring

theorem sineTail_denominator {n : ℕ} (hn : n < 11) :
    (((23 - 2 * n) * (22 - 2 * n) : ℕ) : ℝ) = (23 - 2 * n) * (22 - 2 * n) ∧ (6 : ℝ) ≤ (23 - 2 * n) * (22 - 2 * n) := by
  interval_cases n <;> norm_num

theorem sineTail_bounds {y : ℝ} (h0 : 0 ≤ y) (h1 : y ≤ 3) {n : ℕ} (hn : n ≤ 11) : 0 ≤ sineTail y n ∧ sineTail y n ≤ 1 := by
  induction n with
  | zero => simp [sineTail]
  | succ n ih =>
    obtain ⟨i0, i1⟩ := ih (by omega)
    obtain ⟨-, hd⟩ := sineTail_denominator (show n < 11 by omega)
    rw [sineTail]
    have h2 : y * sineTail y n ≤ 3 := by nlinarith
    have h3 : y * sineTail y n / ((23 - 2 * n) * (22 - 2 * n)) ≤ 1 := by rw [div_le_one (by linarith)]; linarith
    have h4 : 0 ≤ y * sineTail y n / ((23 - 2 * n) * (22 - 2 * n)) :=
      div_nonneg (mul_nonneg h0 i0) (by linarith)
    constructor <;> linarith

/-- Floor division of naturals, over the reals. -/
theorem natDiv_close (a : ℕ) {b : ℕ} (hb : 0 < b) : ((a / b : ℕ) : ℝ) ≤ a / b ∧ (a : ℝ) / b - 1 < ((a / b : ℕ) : ℝ) := by
  have hb' : (0 : ℝ) < b := by exact_mod_cast hb
  refine ⟨Nat.cast_div_le, ?_⟩
  have h : a < (a / b + 1) * b := by rw [add_mul, one_mul, mul_comm]; exact Nat.lt_mul_div_succ a hb |>.trans_eq (by ring)
  have h' : (a : ℝ) < ((a / b : ℕ) + 1) * b := by exact_mod_cast h
  rw [sub_lt_iff_lt_add, div_lt_iff₀ hb']
  exact h'

theorem fxTail_close {X2 : ℕ} (h : (X2 : ℝ) / 2 ^ 144 ≤ 3) {n : ℕ} (hn : n ≤ 11) :
    fxTail X2 n ≤ 2 ^ 72 ∧ |(fxTail X2 n : ℝ) / 2 ^ 72 - sineTail (X2 / 2 ^ 144) n| ≤ 2 / 2 ^ 72 := by
  set y : ℝ := X2 / 2 ^ 144 with hy
  have h0 : 0 ≤ y := by positivity
  induction n with
  | zero => norm_num [fxTail, sineTail]
  | succ n ih =>
    obtain ⟨i0, i1⟩ := ih (by omega)
    obtain ⟨hde, hd⟩ := sineTail_denominator (show n < 11 by omega)
    set d : ℕ := (23 - 2 * n) * (22 - 2 * n) with hdd
    rw [← hde] at hd
    have hdp : 0 < d := by exact_mod_cast (by linarith : (0 : ℝ) < d)
    rw [fxTail, sineTail, ← hdd, ← hde]
    set q : ℕ := X2 * fxTail X2 n / (d * 2 ^ 144) with hq
    obtain ⟨q1, q2⟩ := natDiv_close (X2 * fxTail X2 n) (show 0 < d * 2 ^ 144 by positivity)
    rw [← hq] at q1 q2
    have hX : ((X2 * fxTail X2 n : ℕ) : ℝ) / (d * 2 ^ 144 : ℕ) = y * fxTail X2 n / d := by
      rw [hy]; simp only [Nat.cast_mul, Nat.cast_pow, Nat.cast_ofNat]; field_simp
    rw [hX] at q1 q2
    have hf : (fxTail X2 n : ℝ) ≤ 2 ^ 72 := by exact_mod_cast i0
    have hdr : (0 : ℝ) < d := by linarith
    have hqle : q ≤ 2 ^ 72 := by
      have : y * fxTail X2 n / d ≤ 2 ^ 72 := by
        rw [div_le_iff₀ hdr]
        nlinarith [Nat.cast_nonneg (α := ℝ) (fxTail X2 n)]
      exact_mod_cast q1.trans this
    refine ⟨Nat.sub_le _ _, ?_⟩
    rw [Nat.cast_sub hqle]
    simp only [Nat.cast_pow, Nat.cast_ofNat]
    have hk : y / d ≤ 1 / 2 := by rw [div_le_div_iff₀ hdr (by norm_num)]; linarith
    have hk0 : 0 ≤ y / d := by positivity
    have e1 : ((2 : ℝ) ^ 72 - q) / 2 ^ 72 - (1 - y * sineTail y n / d) =
        (y * fxTail X2 n / d - q) / 2 ^ 72 - (y / d) * ((fxTail X2 n : ℝ) / 2 ^ 72 - sineTail y n) := by field_simp; ring
    rw [e1]
    have e2 : |(y * fxTail X2 n / d - q) / 2 ^ 72| ≤ 1 / 2 ^ 72 := by
      rw [abs_div, abs_of_pos (by positivity : (0 : ℝ) < 2 ^ 72)]
      gcongr
      rw [abs_le]; constructor <;> linarith
    have e3 : |(y / d) * ((fxTail X2 n : ℝ) / 2 ^ 72 - sineTail y n)| ≤ 1 / 2 * (2 / 2 ^ 72) := by
      rw [abs_mul, abs_of_nonneg hk0]
      gcongr
    refine (abs_sub _ _).trans ?_
    linarith

/-- `sin(2*pi*m/65536)` in fixed point. -/
def fxSine (m : Nat) : Nat := m * angleStep * fxTail (m * angleStep * (m * angleStep)) 11 / 2 ^ 72

theorem fxSine_close {m : ℕ} (hm : m ≤ 16384) : |(fxSine m : ℝ) / 2 ^ 72 - Real.sin (turnAngle m)| ≤ 1 / 2 ^ 56 := by
  have hm' : (m : ℝ) ≤ 16384 := by exact_mod_cast hm
  have hm0 : (0 : ℝ) ≤ m := Nat.cast_nonneg m
  set x : ℝ := m * angleStep / 2 ^ 72 with hx
  have hstep : |(angleStep : ℝ) / 2 ^ 72 - Real.pi / 32768| ≤ 1 / 2 ^ 71 := by
    have h1 := Real.pi_gt_d20
    have h2 := Real.pi_lt_d20
    rw [abs_le]
    norm_num [angleStep] at *
    constructor <;> linarith
  have hxa : |x - turnAngle m| ≤ 1 / 2 ^ 57 := by
    have : x - turnAngle m = (angleStep / 2 ^ 72 - Real.pi / 32768) * m := by rw [hx, turnAngle]; ring
    rw [this, abs_mul, abs_of_nonneg hm0]
    calc _ ≤ 1 / 2 ^ 71 * (m : ℝ) := by gcongr
      _ ≤ 1 / 2 ^ 57 := by linarith
  have h0 : 0 ≤ x := by positivity
  have h1 : x ≤ 1.6 := by
    have := turnAngle_bounds hm
    have hp := Real.pi_lt_d4
    have := (abs_le.1 hxa).2
    norm_num at *
    linarith
  have hX : ((m * angleStep * (m * angleStep) : ℕ) : ℝ) / 2 ^ 144 = x * x := by rw [hx]; push_cast; ring
  obtain ⟨-, t1⟩ := fxTail_close (X2 := m * angleStep * (m * angleStep)) (by rw [hX]; nlinarith) (le_refl 11)
  rw [hX] at t1
  set F := fxTail (m * angleStep * (m * angleStep)) 11 with hF
  obtain ⟨q1, q2⟩ := natDiv_close (m * angleStep * F) (show 0 < 2 ^ 72 by positivity)
  have hS : fxSine m = m * angleStep * F / 2 ^ 72 := rfl
  rw [← hS] at q1 q2
  have hq : ((m * angleStep * F : ℕ) : ℝ) / (2 ^ 72 : ℕ) = x * F := by rw [hx]; push_cast; ring
  rw [hq] at q1 q2
  have e1 : |(fxSine m : ℝ) / 2 ^ 72 - x * (F / 2 ^ 72)| ≤ 1 / 2 ^ 72 := by
    rw [show (fxSine m : ℝ) / 2 ^ 72 - x * (F / 2 ^ 72) = (fxSine m - x * F) / 2 ^ 72 by ring, abs_div,
      abs_of_pos (by positivity : (0 : ℝ) < 2 ^ 72)]
    gcongr
    rw [abs_le]; constructor <;> linarith
  have e2 : |x * (F / 2 ^ 72) - sineSum x 12| ≤ 1.6 * (2 / 2 ^ 72) := by
    rw [← mul_sineTail_eq_sineSum, ← mul_sub, abs_mul, abs_of_nonneg h0]
    gcongr
  have e3 := abs_sin_sub_sineSum_le h0 h1
  have e4 := (Real.abs_sin_sub_sin_le x (turnAngle m)).trans hxa
  rw [abs_le] at *
  constructor <;> linarith [e1.1, e1.2, e2.1, e2.2, e3.1, e3.2, e4.1, e4.2]

end Sys2Proof.Machine
end

