-- ==== Sys2Proof/Laws/SineTable.lean ====
section
/-!
SUPPORT. The table is exact: for every sample width and every one of the 16385 angles of a quarter turn, `peak * sin` is
further than 2^-21 from every half-integer, so the nearest integer the model computes is the nearest integer to the real
value (spec/20_memory.md R53, R55), in every legal configuration.
-/

namespace Sys2Proof.Machine

/-! ### One check for all sample widths

A value `T` in units of 2^-72 is checked against the 31 peaks of the sample widths 2 to 32 at once, each in its own lane of
128 bits: the fraction of `T * peak` may not lie near one half. -/

/-- `f n`, with `n` evaluated first. -/
def forceNat (f : Nat → Nat) (n : Nat) : Nat := Nat.rec (f 0) (fun k _ => f (Nat.succ k)) n

theorem forceNat_eq (f : Nat → Nat) (n : Nat) : forceNat f n = f n := by cases n <;> rfl

/-- `fxTail X2 11`, written out. -/
def tailEleven (X2 : Nat) : Nat :=
  Nat.sub 4722366482869645213696 (Nat.div (Nat.mul X2 
    (Nat.sub 4722366482869645213696 (Nat.div (Nat.mul X2 
    (Nat.sub 4722366482869645213696 (Nat.div (Nat.mul X2 
    (Nat.sub 4722366482869645213696 (Nat.div (Nat.mul X2 
    (Nat.sub 4722366482869645213696 (Nat.div (Nat.mul X2 
    (Nat.sub 4722366482869645213696 (Nat.div (Nat.mul X2 
    (Nat.sub 4722366482869645213696 (Nat.div (Nat.mul X2 
    (Nat.sub 4722366482869645213696 (Nat.div (Nat.mul X2 
    (Nat.sub 4722366482869645213696 (Nat.div (Nat.mul X2 
    (Nat.sub 4722366482869645213696 (Nat.div (Nat.mul X2 
    (Nat.sub 4722366482869645213696 (Nat.div (Nat.mul X2 4722366482869645213696) 11284177070456495309617073445960070922026090496))) 9366312983382861719445001674512311832511774720))) 7626854857897473114405215649245739635045302272))) 6065802694000329494497715370160354329626673152))) 4683156491691430859722500837256155916255887360))) 3478916250970777210079572050533144394932944896))) 2453081971838368545568929009991319765657845760))) 1605653654294204866190571715630682028430589952))) 936631298338286171944500167451231183251177472))) 446014903970612462830714365452967230119608320))) 133804471191183738849214309635890169035882496)

theorem tailEleven_eq (X2 : Nat) : tailEleven X2 = fxTail X2 11 := rfl

/-- `fxSine m`, with the multiples of the turnAngle evaluated first. -/
def fastSine (m : Nat) : Nat :=
  forceNat (fun x => Nat.div (Nat.mul x (tailEleven (Nat.mul x x))) 4722366482869645213696) (Nat.mul m 452751216129820177)

theorem fastSine_eq (m : Nat) : fastSine m = fxSine m := by rw [fastSine, forceNat_eq, tailEleven_eq]; rfl

/-- Numbers below 2^128 side by side, the first lowest. -/
def pack : List ℕ → ℕ
  | [] => 0
  | a :: l => 2 ^ 128 * pack l + a

/-- PEAK for the sample widths 2 to 32 (spec/00_scope.md R13). -/
def peaks : List ℕ := (List.range 31).map fun s => 2 ^ (s + 1) - 1

/-- No lane of `T * peak` is near a tie: the constants are `packed_constants`'. -/
def lanesOk (T : Nat) : Bool :=
  Nat.beq (Nat.land (Nat.add (Nat.land (Nat.add (Nat.mul T
    0x7fffffff0000000000000000000000003fffffff0000000000000000000000001fffffff0000000000000000000000000fffffff00000000000000000000000007ffffff00000000000000000000000003ffffff00000000000000000000000001ffffff00000000000000000000000000ffffff000000000000000000000000007fffff000000000000000000000000003fffff000000000000000000000000001fffff000000000000000000000000000fffff0000000000000000000000000007ffff0000000000000000000000000003ffff0000000000000000000000000001ffff0000000000000000000000000000ffff00000000000000000000000000007fff00000000000000000000000000003fff00000000000000000000000000001fff00000000000000000000000000000fff000000000000000000000000000007ff000000000000000000000000000003ff000000000000000000000000000001ff000000000000000000000000000000ff0000000000000000000000000000007f0000000000000000000000000000003f0000000000000000000000000000001f0000000000000000000000000000000f000000000000000000000000000000070000000000000000000000000000000300000000000000000000000000000001)
    0x800010000000000000000000000000008000100000000000000000000000000080001000000000000000000000000000800010000000000000000000000000008000100000000000000000000000000080001000000000000000000000000000800010000000000000000000000000008000100000000000000000000000000080001000000000000000000000000000800010000000000000000000000000008000100000000000000000000000000080001000000000000000000000000000800010000000000000000000000000008000100000000000000000000000000080001000000000000000000000000000800010000000000000000000000000008000100000000000000000000000000080001000000000000000000000000000800010000000000000000000000000008000100000000000000000000000000080001000000000000000000000000000800010000000000000000000000000008000100000000000000000000000000080001000000000000000000000000000800010000000000000000000000000008000100000000000000000000000000080001000000000000000000000000000800010000000000000000000000000008000100000000000000000000000000080001000000000000000000000000000800010000000000000)
    0xffffffffffffffffff00000000000000ffffffffffffffffff00000000000000ffffffffffffffffff00000000000000ffffffffffffffffff00000000000000ffffffffffffffffff00000000000000ffffffffffffffffff00000000000000ffffffffffffffffff00000000000000ffffffffffffffffff00000000000000ffffffffffffffffff00000000000000ffffffffffffffffff00000000000000ffffffffffffffffff00000000000000ffffffffffffffffff00000000000000ffffffffffffffffff00000000000000ffffffffffffffffff00000000000000ffffffffffffffffff00000000000000ffffffffffffffffff00000000000000ffffffffffffffffff00000000000000ffffffffffffffffff00000000000000ffffffffffffffffff00000000000000ffffffffffffffffff00000000000000ffffffffffffffffff00000000000000ffffffffffffffffff00000000000000ffffffffffffffffff00000000000000ffffffffffffffffff00000000000000ffffffffffffffffff00000000000000ffffffffffffffffff00000000000000ffffffffffffffffff00000000000000ffffffffffffffffff00000000000000ffffffffffffffffff00000000000000ffffffffffffffffff00000000000000ffffffffffffffffff)
    0xffffe000000000000000000000000000ffffe000000000000000000000000000ffffe000000000000000000000000000ffffe000000000000000000000000000ffffe000000000000000000000000000ffffe000000000000000000000000000ffffe000000000000000000000000000ffffe000000000000000000000000000ffffe000000000000000000000000000ffffe000000000000000000000000000ffffe000000000000000000000000000ffffe000000000000000000000000000ffffe000000000000000000000000000ffffe000000000000000000000000000ffffe000000000000000000000000000ffffe000000000000000000000000000ffffe000000000000000000000000000ffffe000000000000000000000000000ffffe000000000000000000000000000ffffe000000000000000000000000000ffffe000000000000000000000000000ffffe000000000000000000000000000ffffe000000000000000000000000000ffffe000000000000000000000000000ffffe000000000000000000000000000ffffe000000000000000000000000000ffffe000000000000000000000000000ffffe000000000000000000000000000ffffe000000000000000000000000000ffffe000000000000000000000000000ffffe0000000000000)
    0x1000000000000000000000000000000010000000000000000000000000000000100000000000000000000000000000001000000000000000000000000000000010000000000000000000000000000000100000000000000000000000000000001000000000000000000000000000000010000000000000000000000000000000100000000000000000000000000000001000000000000000000000000000000010000000000000000000000000000000100000000000000000000000000000001000000000000000000000000000000010000000000000000000000000000000100000000000000000000000000000001000000000000000000000000000000010000000000000000000000000000000100000000000000000000000000000001000000000000000000000000000000010000000000000000000000000000000100000000000000000000000000000001000000000000000000000000000000010000000000000000000000000000000100000000000000000000000000000001000000000000000000000000000000010000000000000000000000000000000100000000000000000000000000000001000000000000000000000000000000010000000000000000000000000000000100000000000000000000000000000001000000000000000000)
    0x1000000000000000000000000000000010000000000000000000000000000000100000000000000000000000000000001000000000000000000000000000000010000000000000000000000000000000100000000000000000000000000000001000000000000000000000000000000010000000000000000000000000000000100000000000000000000000000000001000000000000000000000000000000010000000000000000000000000000000100000000000000000000000000000001000000000000000000000000000000010000000000000000000000000000000100000000000000000000000000000001000000000000000000000000000000010000000000000000000000000000000100000000000000000000000000000001000000000000000000000000000000010000000000000000000000000000000100000000000000000000000000000001000000000000000000000000000000010000000000000000000000000000000100000000000000000000000000000001000000000000000000000000000000010000000000000000000000000000000100000000000000000000000000000001000000000000000000000000000000010000000000000000000000000000000100000000000000000000000000000001000000000000000000

theorem packed_constants :
    pack peaks = 
      0x7fffffff0000000000000000000000003fffffff0000000000000000000000001fffffff0000000000000000000000000fffffff00000000000000000000000007ffffff00000000000000000000000003ffffff00000000000000000000000001ffffff00000000000000000000000000ffffff000000000000000000000000007fffff000000000000000000000000003fffff000000000000000000000000001fffff000000000000000000000000000fffff0000000000000000000000000007ffff0000000000000000000000000003ffff0000000000000000000000000001ffff0000000000000000000000000000ffff00000000000000000000000000007fff00000000000000000000000000003fff00000000000000000000000000001fff00000000000000000000000000000fff000000000000000000000000000007ff000000000000000000000000000003ff000000000000000000000000000001ff000000000000000000000000000000ff0000000000000000000000000000007f0000000000000000000000000000003f0000000000000000000000000000001f0000000000000000000000000000000f000000000000000000000000000000070000000000000000000000000000000300000000000000000000000000000001 ∧ pack (peaks.map fun _ => 2 ^ 71 + 2 ^ 52) = 
      0x800010000000000000000000000000008000100000000000000000000000000080001000000000000000000000000000800010000000000000000000000000008000100000000000000000000000000080001000000000000000000000000000800010000000000000000000000000008000100000000000000000000000000080001000000000000000000000000000800010000000000000000000000000008000100000000000000000000000000080001000000000000000000000000000800010000000000000000000000000008000100000000000000000000000000080001000000000000000000000000000800010000000000000000000000000008000100000000000000000000000000080001000000000000000000000000000800010000000000000000000000000008000100000000000000000000000000080001000000000000000000000000000800010000000000000000000000000008000100000000000000000000000000080001000000000000000000000000000800010000000000000000000000000008000100000000000000000000000000080001000000000000000000000000000800010000000000000000000000000008000100000000000000000000000000080001000000000000000000000000000800010000000000000 ∧ pack (peaks.map fun _ => 2 ^ 72 - 1) = 
      0xffffffffffffffffff00000000000000ffffffffffffffffff00000000000000ffffffffffffffffff00000000000000ffffffffffffffffff00000000000000ffffffffffffffffff00000000000000ffffffffffffffffff00000000000000ffffffffffffffffff00000000000000ffffffffffffffffff00000000000000ffffffffffffffffff00000000000000ffffffffffffffffff00000000000000ffffffffffffffffff00000000000000ffffffffffffffffff00000000000000ffffffffffffffffff00000000000000ffffffffffffffffff00000000000000ffffffffffffffffff00000000000000ffffffffffffffffff00000000000000ffffffffffffffffff00000000000000ffffffffffffffffff00000000000000ffffffffffffffffff00000000000000ffffffffffffffffff00000000000000ffffffffffffffffff00000000000000ffffffffffffffffff00000000000000ffffffffffffffffff00000000000000ffffffffffffffffff00000000000000ffffffffffffffffff00000000000000ffffffffffffffffff00000000000000ffffffffffffffffff00000000000000ffffffffffffffffff00000000000000ffffffffffffffffff00000000000000ffffffffffffffffff00000000000000ffffffffffffffffff ∧
      pack (peaks.map fun _ => 2 ^ 72 - 2 ^ 53) = 
      0xffffe000000000000000000000000000ffffe000000000000000000000000000ffffe000000000000000000000000000ffffe000000000000000000000000000ffffe000000000000000000000000000ffffe000000000000000000000000000ffffe000000000000000000000000000ffffe000000000000000000000000000ffffe000000000000000000000000000ffffe000000000000000000000000000ffffe000000000000000000000000000ffffe000000000000000000000000000ffffe000000000000000000000000000ffffe000000000000000000000000000ffffe000000000000000000000000000ffffe000000000000000000000000000ffffe000000000000000000000000000ffffe000000000000000000000000000ffffe000000000000000000000000000ffffe000000000000000000000000000ffffe000000000000000000000000000ffffe000000000000000000000000000ffffe000000000000000000000000000ffffe000000000000000000000000000ffffe000000000000000000000000000ffffe000000000000000000000000000ffffe000000000000000000000000000ffffe000000000000000000000000000ffffe000000000000000000000000000ffffe000000000000000000000000000ffffe0000000000000 ∧ pack (peaks.map fun _ => 2 ^ 72) = 
      0x1000000000000000000000000000000010000000000000000000000000000000100000000000000000000000000000001000000000000000000000000000000010000000000000000000000000000000100000000000000000000000000000001000000000000000000000000000000010000000000000000000000000000000100000000000000000000000000000001000000000000000000000000000000010000000000000000000000000000000100000000000000000000000000000001000000000000000000000000000000010000000000000000000000000000000100000000000000000000000000000001000000000000000000000000000000010000000000000000000000000000000100000000000000000000000000000001000000000000000000000000000000010000000000000000000000000000000100000000000000000000000000000001000000000000000000000000000000010000000000000000000000000000000100000000000000000000000000000001000000000000000000000000000000010000000000000000000000000000000100000000000000000000000000000001000000000000000000000000000000010000000000000000000000000000000100000000000000000000000000000001000000000000000000 := by decide +kernel

theorem pack_add (l : List ℕ) (f g : ℕ → ℕ) : pack (l.map f) + pack (l.map g) = pack (l.map fun a => f a + g a) := by
  induction l with
  | nil => rfl
  | cons a l ih => simp only [List.map_cons, pack, ← ih]; ring

theorem mul_pack (T : ℕ) (l : List ℕ) : T * pack l = pack (l.map fun a => T * a) := by
  induction l with
  | nil => rfl
  | cons a l ih => simp only [List.map_cons, pack, ← ih]; ring

theorem land_lane {a b : ℕ} (x y : ℕ) (ha : a < 2 ^ 128) (hb : b < 2 ^ 128) :
    (2 ^ 128 * x + a) &&& (2 ^ 128 * y + b) = 2 ^ 128 * (x &&& y) + (a &&& b) := by
  apply Nat.eq_of_testBit_eq
  intro i
  rw [Nat.testBit_and, Nat.testBit_two_pow_mul_add _ ha, Nat.testBit_two_pow_mul_add _ hb,
    Nat.testBit_two_pow_mul_add _ (Nat.and_lt_two_pow _ hb)]
  split <;> simp

theorem pack_land (l : List ℕ) (f g : ℕ → ℕ) (hf : ∀ a ∈ l, f a < 2 ^ 128) (hg : ∀ a ∈ l, g a < 2 ^ 128) :
    pack (l.map f) &&& pack (l.map g) = pack (l.map fun a => f a &&& g a) := by
  induction l with
  | nil => simp [pack]
  | cons a l ih =>
    simp only [List.map_cons, pack]
    rw [land_lane _ _ (hf a (by simp)) (hg a (by simp)),
      ih (fun a h => hf a (by simp [h])) (fun a h => hg a (by simp [h]))]

theorem pack_inj (l : List ℕ) (f g : ℕ → ℕ) (hf : ∀ a ∈ l, f a < 2 ^ 128) (hg : ∀ a ∈ l, g a < 2 ^ 128)
    (h : pack (l.map f) = pack (l.map g)) : ∀ a ∈ l, f a = g a := by
  induction l with
  | nil => simp
  | cons a l ih =>
    simp only [List.map_cons, pack] at h
    have h1 := hf a (by simp)
    have h2 := hg a (by simp)
    have h3 : f a = g a ∧ pack (l.map f) = pack (l.map g) := by omega
    simp only [List.mem_cons, forall_eq_or_imp]
    exact ⟨h3.1, ih (fun a h => hf a (by simp [h])) (fun a h => hg a (by simp [h])) h3.2⟩

theorem peaks_lt : ∀ p ∈ peaks, p < 2 ^ 31 := by decide +kernel

theorem lane_of_lanesOk {T : ℕ} (hT : T < 2 ^ 73) (h : lanesOk T = true) :
    ∀ p ∈ peaks, 2 ^ 53 ≤ (T * p + (2 ^ 71 + 2 ^ 52)) % 2 ^ 72 := by
  obtain ⟨c1, c2, c3, c4, c5⟩ := packed_constants
  have h' := Nat.eq_of_beq_eq_true h
  simp only [← c1, ← c2, ← c3, ← c4, ← c5] at h'
  change ((T * pack peaks + pack (peaks.map fun _ => 2 ^ 71 + 2 ^ 52)) &&& pack (peaks.map fun _ => 2 ^ 72 - 1)) +
    pack (peaks.map fun _ => 2 ^ 72 - 2 ^ 53) &&& pack (peaks.map fun _ => 2 ^ 72) = pack (peaks.map fun _ => 2 ^ 72) at h'
  have hb : ∀ p ∈ peaks, T * p + (2 ^ 71 + 2 ^ 52) < 2 ^ 128 := fun p hp => by
    have := Nat.mul_lt_mul'' hT (peaks_lt p hp)
    omega
  rw [mul_pack, pack_add, pack_land _ _ _ hb (fun _ _ => by norm_num), pack_add, pack_land] at h'
  · intro p hp
    have := pack_inj _ _ _ ?_ ?_ h' p hp
    · simp only [Nat.and_two_pow_sub_one_eq_mod] at this
      set v := (T * p + (2 ^ 71 + 2 ^ 52)) % 2 ^ 72 with hv
      by_contra hlt
      have hz : (v + (2 ^ 72 - 2 ^ 53)) &&& 2 ^ 72 = 0 := by
        rw [Nat.and_two_pow, Nat.testBit_lt_two_pow (by omega)]
        simp
      omega
    · intro a _; exact (Nat.and_le_right).trans_lt (by norm_num)
    · intro a _; norm_num
  · intro a ha
    have : (T * a + (2 ^ 71 + 2 ^ 52) &&& 2 ^ 72 - 1) ≤ 2 ^ 72 - 1 := Nat.and_le_right
    omega
  · intro a _; norm_num

/-- Does `f` hold of every number below `n`? -/
def allBelow (f : Nat → Bool) (n : Nat) : Bool := Nat.rec true (fun k ih => Bool.and (f k) ih) n

theorem of_allBelow {f : Nat → Bool} {n : Nat} (h : allBelow f n = true) : ∀ k < n, f k = true := by
  induction n with
  | zero => simp
  | succ n ih =>
    have h' : (f n && allBelow f n) = true := h
    rw [Bool.and_eq_true] at h'
    intro k hk
    rcases Nat.lt_succ_iff_lt_or_eq.1 hk with hk | rfl
    · exact ih h'.2 k hk
    · exact h'.1

theorem lanes_0 : allBelow (fun m => lanesOk (fastSine m)) 4096 = true := by decide +kernel
theorem lanes_4096 : allBelow (fun m => lanesOk (fastSine (4096 + m))) 4096 = true := by decide +kernel
theorem lanes_8192 : allBelow (fun m => lanesOk (fastSine (8192 + m))) 4096 = true := by decide +kernel
theorem lanes_12288 : allBelow (fun m => lanesOk (fastSine (12288 + m))) 4096 = true := by decide +kernel
theorem lanes_16384 : lanesOk (fastSine 16384) = true := by decide +kernel

theorem lanesOk_fxSine {m : ℕ} (hm : m ≤ 16384) : lanesOk (fxSine m) = true := by
  rw [← fastSine_eq]
  by_cases h1 : m < 4096
  · exact of_allBelow lanes_0 m h1
  by_cases h2 : m < 8192
  · obtain ⟨k, rfl⟩ := Nat.exists_eq_add_of_le (not_lt.1 h1)
    exact of_allBelow lanes_4096 k (by omega)
  by_cases h3 : m < 12288
  · obtain ⟨k, rfl⟩ := Nat.exists_eq_add_of_le (not_lt.1 h2)
    exact of_allBelow lanes_8192 k (by omega)
  by_cases h4 : m < 16384
  · obtain ⟨k, rfl⟩ := Nat.exists_eq_add_of_le (not_lt.1 h3)
    exact of_allBelow lanes_12288 k (by omega)
  · exact (show m = 16384 by omega) ▸ lanes_16384

theorem mem_peaks {s : ℕ} (h1 : 1 ≤ s) (h2 : s ≤ 31) : 2 ^ s - 1 ∈ peaks := by
  rw [peaks, List.mem_map]
  exact ⟨s - 1, by simp; omega, by rw [Nat.sub_add_cancel h1]⟩

theorem fxSine_lt {m : ℕ} (hm : m ≤ 16384) : fxSine m < 2 ^ 73 := by
  have h := (abs_le.1 (fxSine_close hm)).2
  have h1 := Real.sin_le_one (turnAngle m)
  have : (fxSine m : ℝ) < 2 ^ 73 := by
    have : (fxSine m : ℝ) / 2 ^ 72 < 2 := by linarith
    rw [div_lt_iff₀ (by positivity)] at this
    linarith
  exact_mod_cast this

/-- A lane that is far from the tie says so over the reals. -/
theorem far_of_lane {T p : ℕ} (h : 2 ^ 53 ≤ (T * p + (2 ^ 71 + 2 ^ 52)) % 2 ^ 72) (k : ℤ) :
    1 / 2 ^ 20 ≤ |(p : ℝ) * (T / 2 ^ 72) - (k + 1 / 2)| := by
  obtain ⟨v, hv⟩ : ∃ v, v = (T * p + (2 ^ 71 + 2 ^ 52)) % 2 ^ 72 := ⟨_, rfl⟩
  obtain ⟨q, hq⟩ : ∃ q, q = (T * p + (2 ^ 71 + 2 ^ 52)) / 2 ^ 72 := ⟨_, rfl⟩
  have hdm : 2 ^ 72 * q + v = T * p + (2 ^ 71 + 2 ^ 52) := by rw [hv, hq]; exact Nat.div_add_mod _ _
  have hv2 : v + 1 ≤ 2 ^ 72 := by rw [hv]; exact Nat.mod_lt _ (by positivity)
  rw [← hv] at h
  have hdm' : (2 ^ 72 : ℝ) * q + v = T * p + (2 ^ 71 + 2 ^ 52) := by exact_mod_cast hdm
  have hv' : (2 ^ 53 : ℝ) ≤ v := by exact_mod_cast h
  have hv2' : (v : ℝ) + 1 ≤ 2 ^ 72 := by exact_mod_cast hv2
  have e2 : (p : ℝ) * (T / 2 ^ 72) - (k + 1 / 2) = (q - 1 - k : ℤ) + (v - 2 ^ 52) / 2 ^ 72 := by
    push_cast
    field_simp
    linarith
  have f1 : (1 : ℝ) / 2 ^ 20 ≤ (v - 2 ^ 52) / 2 ^ 72 := by
    rw [div_le_div_iff₀ (by positivity) (by positivity)]; linarith
  have f2 : ((v : ℝ) - 2 ^ 52) / 2 ^ 72 ≤ 1 - 1 / 2 ^ 20 := by rw [div_le_iff₀ (by positivity)]; linarith
  rw [e2]
  rcases le_or_gt 0 ((q : ℤ) - 1 - k) with hz | hz
  · have : (0 : ℝ) ≤ ((q - 1 - k : ℤ) : ℝ) := by exact_mod_cast hz
    exact le_trans (by linarith) (le_abs_self _)
  · have : ((q - 1 - k : ℤ) : ℝ) ≤ -1 := by exact_mod_cast (by omega : (q : ℤ) - 1 - k ≤ -1)
    exact le_trans (by linarith) (neg_le_abs _)

/-- No table value of any configuration is near a rounding tie. -/
theorem far_from_tie {m : ℕ} (hm : m ≤ 16384) {s : ℕ} (h1 : 1 ≤ s) (h2 : s ≤ 31) (k : ℤ) :
    1 / 2 ^ 21 ≤ |((2 ^ s - 1 : ℕ) : ℝ) * Real.sin (turnAngle m) - (k + 1 / 2)| := by
  have hp := mem_peaks h1 h2
  generalize 2 ^ s - 1 = p at hp
  have e3 := far_of_lane (lane_of_lanesOk (fxSine_lt hm) (lanesOk_fxSine hm) p hp) k
  have hclose := fxSine_close hm
  generalize fxSine m = T at e3 hclose
  have hpr : (p : ℝ) ≤ 2 ^ 31 := by exact_mod_cast (peaks_lt p hp).le
  have e1 : |(p : ℝ) * (T / 2 ^ 72) - p * Real.sin (turnAngle m)| ≤ 1 / 2 ^ 25 := by
    rw [← mul_sub, abs_mul, abs_of_nonneg (Nat.cast_nonneg _)]
    calc _ ≤ (2 : ℝ) ^ 31 * (1 / 2 ^ 56) := by gcongr
      _ = 1 / 2 ^ 25 := by norm_num
  have e4 := abs_sub_abs_le_abs_sub ((p : ℝ) * (T / 2 ^ 72) - (k + 1 / 2)) (p * Real.sin (turnAngle m) - (k + 1 / 2))
  rw [sub_sub_sub_cancel_right] at e4
  linarith

/-- The quarter-turn sample is the nearest integer, and there is only one. -/
theorem quarterSample_nearest {m : ℕ} (hm : m ≤ 16384) {s : ℕ} (h1 : 1 ≤ s) (h2 : s ≤ 31) :
    |(quarterSample (2 ^ s - 1) m : ℝ) - ((2 ^ s - 1 : ℕ) : ℝ) * Real.sin (turnAngle m)| < 1 / 2 := by
  have hp31 := peaks_lt _ (mem_peaks h1 h2)
  have hpr : ((2 ^ s - 1 : ℕ) : ℝ) ≤ 2 ^ 31 := by exact_mod_cast hp31.le
  have hc := abs_le.1 (quarterSample_close (2 ^ s - 1) hm)
  have t1 := far_from_tie hm h1 h2 (quarterSample (2 ^ s - 1) m)
  have t2 := far_from_tie hm h1 h2 (quarterSample (2 ^ s - 1) m - 1)
  push_cast at t2
  have he : ((2 ^ s - 1 : ℕ) : ℝ) * (2 / 10 ^ 18) < 1 / 2 ^ 21 := by
    calc _ ≤ (2 ^ 31 : ℝ) * (2 / 10 ^ 18) := by gcongr
      _ < 1 / 2 ^ 21 := by norm_num
  rw [abs_lt]
  constructor
  · by_contra hcon
    rw [le_abs] at t1
    rcases t1 with t | t <;> linarith [hc.1, hc.2]
  · by_contra hcon
    rw [le_abs] at t2
    rcases t2 with t | t <;> linarith [hc.1, hc.2]

end Sys2Proof.Machine
end

