-- ==== Sys2Proof/Laws/Table.lean ====
section
/-!
SUPPORT. The wave-table and the lookup: every entry fits in a sample (spec/20_memory.md R53), a ROM read gives the entry, and
the lookup is the rule's formula over the entries (spec/42_wavetable.md R131), within the peaks.
-/

namespace Sys2Proof.Machine

theorem turnSample_bounds {p j : ℕ} (hp : p < 2 ^ 31) (hj : j < 65536) :
    -(p : Int) ≤ turnSample p j ∧ turnSample p j ≤ p := by
  have hz : (0 : Int) ≤ p := Int.natCast_nonneg p
  unfold turnSample
  split_ifs
  · have := quarterSample_bounds hp (m := j) (by omega); omega
  · have := quarterSample_bounds hp (m := 32768 - j) (by omega); omega
  · have := quarterSample_bounds hp (m := j - 32768) (by omega); omega
  · have := quarterSample_bounds hp (m := 65536 - j) (by omega); omega

theorem turnPlace_lt (c : Config) (i : ℕ) : i % c.tableSize * 2 ^ (16 - c.tableBits) < 65536 := by
  have h : i % c.tableSize < c.tableSize := Nat.mod_lt _ (Nat.two_pow_pos _)
  have e : c.tableSize * 2 ^ (16 - c.tableBits) = 65536 := by
    rw [Config.tableSize, ← pow_add, Nat.add_sub_cancel' c.tableBits_le]; norm_num
  exact e ▸ Nat.mul_lt_mul_of_pos_right h (Nat.two_pow_pos _)

/-- Every entry lies in [-PEAK, PEAK] (R53). -/
theorem tableEntry_bounds (c : Config) (i : ℕ) : -(c.peak : Int) ≤ tableEntry c i ∧ tableEntry c i ≤ c.peak :=
  turnSample_bounds c.peak_lt_two_pow (turnPlace_lt c i)

/-- The guard sample is entry 0 (R54). -/
theorem tableEntry_guard (c : Config) : tableEntry c c.tableSize = tableEntry c 0 := by simp [tableEntry]

/-- A value within the peaks is itself as an S-bit pattern. -/
theorem toInt_ofInt_of_peak (c : Config) {v : Int} (h1 : -(c.peak : Int) ≤ v) (h2 : v ≤ c.peak) :
    (BitVec.ofInt c.sampleBits v).toInt = v := by
  obtain ⟨s, hs⟩ := Nat.exists_eq_add_of_le' (show 1 ≤ c.sampleBits by have := c.two_le_sampleBits; omega)
  have hp : (c.peak : Int) < 2 ^ s := by
    have := c.peak_lt
    rw [hs, Nat.add_sub_cancel] at this
    exact_mod_cast this
  rw [BitVec.toInt_ofInt, hs]
  refine Int.bmod_eq_of_le ?_ ?_ <;> rw [pow_succ] <;> push_cast <;> omega

/-- A ROM read gives the table entry. -/
theorem romRead_toInt (c : Config) (i : Fin (c.tableSize + 1)) : (romRead c i).toInt = tableEntry c i :=
  toInt_ofInt_of_peak c (tableEntry_bounds c i).1 (tableEntry_bounds c i).2

theorem nodeBefore_eq (c : Config) (ph : BitVec c.phaseBits) : nodeBefore c ph = tableEntry c (ph.toNat / 2 ^ c.fracBits) :=
  romRead_toInt c _

theorem nodeAfter_eq (c : Config) (ph : BitVec c.phaseBits) :
    nodeAfter c ph = tableEntry c (ph.toNat / 2 ^ c.fracBits + 1) :=
  romRead_toInt c _

/-- The lookup is the rule's formula over the table entries (R131). -/
theorem lookup_eq_lookupValue (c : Config) (ph : BitVec c.phaseBits) : lookup c ph = lookupValue c ph.toNat := by
  rw [lookup, interpolate, nodeBefore_eq, nodeAfter_eq]
  rfl

/-- The lookup stays between its two nodes (R133). -/
theorem lookup_between (c : Config) (ph : BitVec c.phaseBits) :
    min (nodeBefore c ph) (nodeAfter c ph) ≤ lookup c ph ∧ lookup c ph ≤ max (nodeBefore c ph) (nodeAfter c ph) :=
  interpolate_between c.one_le_fracBits _ _ (Nat.mod_lt _ (Nat.two_pow_pos _))

/-- Every lookup value lies in [-PEAK, PEAK] (R133). -/
theorem lookup_bounds (c : Config) (ph : BitVec c.phaseBits) : -(c.peak : Int) ≤ lookup c ph ∧ lookup c ph ≤ c.peak := by
  have h := lookup_between c ph
  have h0 := tableEntry_bounds c (ph.toNat / 2 ^ c.fracBits)
  have h1 := tableEntry_bounds c (ph.toNat / 2 ^ c.fracBits + 1)
  rw [← nodeBefore_eq] at h0
  rw [← nodeAfter_eq] at h1
  exact ⟨(le_min h0.1 h1.1).trans h.1, h.2.trans (max_le h0.2 h1.2)⟩

/-- What PROCESS caches: a gain of at most 1.0 keeps the sample within the peaks (R152). -/
theorem gainMul_lookup_bounds (c : Config) (ph : BitVec c.phaseBits) {g : ℕ} (hg : g ≤ 2 ^ c.gainFracBits) :
    -(c.peak : Int) ≤ gainMul c.gainFracBits (lookup c ph) g ∧ gainMul c.gainFracBits (lookup c ph) g ≤ c.peak := by
  have h := gainMul_bounded c.one_le_gainFracBits (lookup c ph) hg
  have hb := abs_le.2 (lookup_bounds c ph)
  constructor <;> linarith [h.1, h.2]

/-- The sample of a whole turn is nearer than one half to the real value, so it is the nearest integer. -/
theorem turnSample_nearest {s j : ℕ} (h1 : 1 ≤ s) (h2 : s ≤ 31) (hj : j < 65536) :
    |(turnSample (2 ^ s - 1) j : ℝ) - ((2 ^ s - 1 : ℕ) : ℝ) * Real.sin (turnAngle j)| < 1 / 2 := by
  have mirror (m : ℕ) (hm : m ≤ 16384) := quarterSample_nearest hm h1 h2
  unfold turnSample
  split_ifs with a b c
  · exact mirror j (by omega)
  · have e : Real.sin (turnAngle j) = Real.sin (turnAngle (32768 - j)) := by
      rw [← Real.sin_pi_sub]
      congr 1
      rw [turnAngle, turnAngle, Nat.cast_sub (by omega)]
      push_cast
      ring
    rw [e]
    exact mirror _ (by omega)
  · have e : Real.sin (turnAngle j) = -Real.sin (turnAngle (j - 32768)) := by
      rw [← Real.sin_add_pi]
      congr 1
      rw [turnAngle, turnAngle, Nat.cast_sub (by omega)]
      push_cast
      ring
    rw [e, Int.cast_neg, mul_neg, neg_sub_neg, abs_sub_comm]
    exact mirror _ (by omega)
  · have e : Real.sin (turnAngle j) = -Real.sin (turnAngle (65536 - j)) := by
      rw [← Real.sin_two_pi_sub]
      congr 1
      rw [turnAngle, turnAngle, Nat.cast_sub (by omega)]
      push_cast
      ring
    rw [e, Int.cast_neg, mul_neg, neg_sub_neg, abs_sub_comm]
    exact mirror _ (by omega)

/-! ### The table's symmetries -/

theorem int_of_close {n m : ℤ} (h : |(n : ℝ) - m| < 1 / 2) : n = m := by
  have h1 : |((n - m : ℤ) : ℝ)| < 1 := by push_cast; linarith
  rw [← Int.cast_abs] at h1
  have h2 := Int.abs_lt_one_iff.1 (by exact_mod_cast h1 : |n - m| < 1)
  omega

theorem quarterSample_zero {s : ℕ} (h1 : 1 ≤ s) (h2 : s ≤ 31) : quarterSample (2 ^ s - 1) 0 = 0 := by
  have h := quarterSample_nearest (m := 0) (by omega) h1 h2
  rw [turnAngle] at h
  simp at h
  exact int_of_close (by simpa using h)

theorem quarterSample_peak {s : ℕ} (h1 : 1 ≤ s) (h2 : s ≤ 31) : quarterSample (2 ^ s - 1) 16384 = (2 ^ s - 1 : ℕ) := by
  have h := quarterSample_nearest (m := 16384) (by omega) h1 h2
  rw [turnAngle, show Real.pi * (16384 : ℕ) / 32768 = Real.pi / 2 by push_cast; ring, Real.sin_pi_div_two, mul_one] at h
  exact int_of_close (by exact_mod_cast h)

theorem turnSample_zero {s : ℕ} (h1 : 1 ≤ s) (h2 : s ≤ 31) : turnSample (2 ^ s - 1) 0 = 0 := by
  rw [turnSample, if_pos (by norm_num), quarterSample_zero h1 h2]

theorem turnSample_quarter {s : ℕ} (h1 : 1 ≤ s) (h2 : s ≤ 31) : turnSample (2 ^ s - 1) 16384 = (2 ^ s - 1 : ℕ) := by
  rw [turnSample, if_neg (by norm_num), if_pos (by norm_num), show 32768 - 16384 = 16384 by norm_num,
    quarterSample_peak h1 h2]

theorem turnSample_half {s : ℕ} (h1 : 1 ≤ s) (h2 : s ≤ 31) : turnSample (2 ^ s - 1) 32768 = 0 := by
  rw [turnSample, if_neg (by norm_num), if_neg (by norm_num), if_pos (by norm_num), Nat.sub_self,
    quarterSample_zero h1 h2, neg_zero]

/-- The turn is odd about its middle, as sin is. -/
theorem turnSample_mirror {p : ℕ} (h0 : quarterSample p 0 = 0) {j : ℕ} (h1 : 0 < j) (h2 : j < 65536) :
    turnSample p (65536 - j) = -turnSample p j := by
  unfold turnSample
  rcases lt_trichotomy j 32768 with h | h | h
  · rcases lt_trichotomy j 16384 with h' | h' | h'
    · rw [if_neg (by omega), if_neg (by omega), if_neg (by omega), if_pos h', Nat.sub_sub_self h2.le]
    · rw [if_neg (by omega), if_neg (by omega), if_neg (by omega), if_neg (by omega), if_pos (by omega),
        show 65536 - (65536 - j) = 32768 - j by omega]
    · rw [if_neg (by omega), if_neg (by omega), if_pos (by omega), if_neg (by omega), if_pos (by omega),
        show 65536 - j - 32768 = 32768 - j by omega]
  · rw [if_neg (by omega), if_neg (by omega), if_pos (by omega), if_neg (by omega), if_neg (by omega),
      if_pos (by omega), show 65536 - j - 32768 = 0 by omega, show j - 32768 = 0 by omega, h0, neg_zero, neg_zero]
  · rcases lt_trichotomy j 49152 with h' | h' | h'
    · rw [if_neg (by omega), if_pos (by omega), if_neg (by omega), if_neg (by omega), if_pos (by omega), neg_neg,
        show 32768 - (65536 - j) = j - 32768 by omega]
    · rw [if_neg (by omega), if_pos (by omega), if_neg (by omega), if_neg (by omega), if_neg (by omega), neg_neg,
        show 32768 - (65536 - j) = 65536 - j by omega]
    · rw [if_pos (by omega), if_neg (by omega), if_neg (by omega), if_neg (by omega), neg_neg]

/-- Table positions are whole multiples of 1/65536 of a turn, and N of them make the turn. -/
theorem turnPlace_full (c : Config) : c.tableSize * 2 ^ (16 - c.tableBits) = 65536 := by
  rw [Config.tableSize, ← pow_add, Nat.add_sub_cancel' c.tableBits_le]
  norm_num

end Sys2Proof.Machine
end

