-- ==== Sys2Proof/Tests/Slice0.lean ====
section
/-!
SUPPORT. Tests of one step or one lookup on small states, expected values from the spec (spec/95_test_vectors.md by the
vector's id, the rules' examples, spec/42_wavetable.md R136); the smoke tests of the well-formedness checks; and for every
obligation with hypotheses a concrete case that meets them.
-/

namespace Sys2Proof.Tests

open Sys2Proof.Machine

/-! ### Helpers -/

/-- A configuration with W = 16 and RSP_LATENCY 3, REF otherwise. -/
def narrow : Config where
  phaseBits := 16
  tableBits := 8
  sampleBits := 16
  gainFracBits := 15
  rspLatency := 3
  legal := by decide

/-- A voice with the registers of a state tuple of spec/95_test_vectors.md, nothing owed, no input. -/
def voice (c : Config) (fs freq inc phase count : Nat) (wrap : Bool) (gain : Nat) (last : Int) (ill : Bool) : State where
  cfg := c
  regs :=
    { fs := BitVec.ofNat _ fs, freq := BitVec.ofNat _ freq, inc := BitVec.ofNat _ inc, phase := BitVec.ofNat _ phase,
      cycleCount := BitVec.ofNat _ count, wrap := wrap, gain := BitVec.ofNat _ gain, last := BitVec.ofInt _ last,
      ill := ill }
  tblBuilt := true
  inFlight := []
  edges := []

/-- A voice at work. -/
def busy : State := voice Config.ref 48000 0x03E80000 0x05555555 0xFFFFFFF0 6 true 0x8000 (-32767) false

/-- The state with these clock edges to come. -/
def withEdges (s : State) (es : List PortEdge) : State := { s with edges := es }

/-- The registers and the newest response owed, after a command. -/
def after (i : Instr) (s : State) : Option (View × Option Word) :=
  match exec i s with
  | .next t => some (t.view, t.inFlight.getLast?.map (·.word))
  | .fault _ => none
  | .refused _ => none

/-- The response a command owes. -/
def answer (i : Instr) (s : State) : Option Word := (after i s).bind Prod.snd

/-- The response offered in the cycle after one accepted table word, from reset. -/
def firstAnswer (w : Nat) : Option Word :=
  match step (State.reset.withFetchWord 40 w) with
  | .next t => t.offeredResponse
  | .fault _ => none
  | .refused _ => none

/-! ### Decoding: the words of R78 and R88, written out as OO_DDDDDDDD -/

theorem test_decode_phase_accumulator :
    [0x0B00000000, 0x0740000000, 0x0600000000, 0x0800000000, 0x0900000000, 0x0A00000000, 0x0F00000000,
        0x0203E80000].map (decodeTableWord 40) =
      [some (.tick 0), some (.resetPhase 0x40000000), some (.getPhase 0), some (.getFreq 0), some (.getEven 0),
        some (.getAlt 0), some (.getInc 0), some (.setFreq 0x03E80000)] := by decide

theorem test_decode_oscillator_and_table :
    [0x010000BB80, 0x0300010000, 0x0400000000, 0x0500000000, 0x0E00000000, 0x0CFFFFFFFF].map (decodeTableWord 40) =
      [some (.construct 48000), some (.setGain 0x00010000), some (.process 0), some (.getLast 0), some (.getGain 0),
        some (.lookup 0xFFFFFFFF)] := by decide

theorem test_decode_control_and_reserved :
    [0x0000000000, 0x00FFFFFFFF, 0x0D00000000, 0x1000000000, 0x1F00000001, 0x2000000000, 0x3FFFFFFFFF, 0x4000000000,
        0x7F00000000, 0x8000000000, 0xFF12345678].map (decodeTableWord 40) =
      [some (.nop 0), some (.nop 0xFFFFFFFF), some (.getStatus 0), some (.reserved10to1F 0x10 0),
        some (.reserved10to1F 0x1F 1), some (.reserved20to3F 0x20 0), some (.reserved20to3F 0x3F 0xFFFFFFFF),
        some (.reserved40to7F 0x40 0), some (.reserved40to7F 0x7F 0), some (.reserved80toFF 0x80 0),
        some (.reserved80toFF 0xFF 0x12345678)] := by decide

/-- R74: nothing longer than 40 bits is a command word. -/
theorem test_decode_rejects_long :
    (match decodeBits (2 ^ 40) with
      | .ok _ => none
      | .error r => some r) = some DecodeReject.longerThanFortyBits := by decide

/-! ### Well-formedness: each check refuses an ill-formed term -/

theorem test_wellFormed_refuses_opcode_below : (Instr.reserved10to1F 0x0F 0).wellFormed = false ∧
    (Instr.reserved20to3F 0x1F 0).wellFormed = false ∧ (Instr.reserved40to7F 0x3F 0).wellFormed = false ∧
    (Instr.reserved80toFF 0x7F 0).wellFormed = false := by decide

theorem test_wellFormed_refuses_opcode_above : (Instr.reserved10to1F 0x20 0).wellFormed = false ∧
    (Instr.reserved20to3F 0x40 0).wellFormed = false ∧ (Instr.reserved40to7F 0x80 0).wellFormed = false := by decide

/-- R9 to R14, R17: each range of the parameters refuses a value outside it. -/
theorem test_configuration_refused :
    ∀ p ∈ [(⟨33, 8, 16, 15, 1⟩ : Params), ⟨8, 8, 16, 15, 1⟩, ⟨32, 0, 16, 15, 1⟩, ⟨32, 17, 16, 15, 1⟩, ⟨32, 8, 1, 15, 1⟩,
      ⟨32, 8, 33, 15, 1⟩, ⟨32, 8, 16, 0, 1⟩, ⟨32, 8, 16, 17, 1⟩, ⟨32, 8, 16, 15, 0⟩], p.toConfig? = none := by decide

/-! ### The commands -/

/-- A22: the sum is 2^32 exactly. -/
theorem test_tick_exact_wrap :
    after (.tick 0) (voice Config.ref 48000 0 0x40000000 0xC0000000 5 false 0 0 false) =
      some (⟨48000, 0, 0x40000000, 0, 6, true, 0, 0, false, true⟩, some 0) := by decide

/-- A26: INC = 2^31 and no wrap. -/
theorem test_tick_no_wrap :
    after (.tick 0) (voice Config.ref 48000 0 0x80000000 0x7FFFFFFF 0 true 0 0 false) =
      some (⟨48000, 0, 0x80000000, 0xFFFFFFFF, 0, false, 0, 0, false, true⟩, some 0) := by decide

/-- A35 and A40: an exact half rounds up, and a position close to 1 rounds to 2^16, stored as 0; the count is kept. -/
theorem test_resetPhase_narrow :
    ((after (.resetPhase 0x00008000) (voice narrow 0 0 0 7 3 false 0 0 false)).map fun r => (r.1.phase, r.1.cycleCount)) =
        some (1, 3) ∧
      ((after (.resetPhase 0xFFFF8000) (voice narrow 0 0 0 7 3 false 0 0 false)).map fun r =>
        (r.1.phase, r.1.cycleCount)) = some (0, 3) := by decide

/-- A31: the operand 0 clears the count; WRAP is kept. -/
theorem test_resetPhase_zero :
    ((after (.resetPhase 0) (voice Config.ref 0 0 0 7 3 true 0 0 false)).map fun r =>
      (r.1.phase, r.1.cycleCount, r.1.wrap)) = some (0, 0, true) := by decide

/-- A1 and A8: the reference increment; above Nyquist the frequency is clamped. -/
theorem test_setFreq :
    ((after (.setFreq 0x03E80000) (voice Config.ref 48000 0 0 9 0 false 0 0 false)).map fun r =>
        (r.1.freq, r.1.inc, r.1.phase)) = some (0x03E80000, 0x05555555, 9) ∧
      ((after (.setFreq 0x75300000) (voice Config.ref 48000 0 0 9 0 false 0 0 false)).map fun r =>
        (r.1.freq, r.1.inc)) = some (0x5DBFFFFF, 0x7FFFFFFF) := by decide

/-- A10, A16 and A18: negative, exact half, no sample rate. -/
theorem test_setFreq_corners :
    ((after (.setFreq 0xFFFF0000) (voice Config.ref 48000 5 5 0 0 false 0 0 false)).map fun r => (r.1.freq, r.1.inc)) =
        some (0, 0) ∧
      ((after (.setFreq 0x00000001) (voice Config.ref 131072 0 0 0 0 false 0 0 false)).map fun r =>
        (r.1.freq, r.1.inc)) = some (1, 1) ∧
      ((after (.setFreq 0x03E80000) (voice Config.ref 0 5 5 0 0 false 0 0 false)).map fun r => (r.1.freq, r.1.inc)) =
        some (0, 0) := by decide

/-- The accessors' table: CYCLE_COUNT 3 and 6. -/
theorem test_getEven : answer (.getEven 0) busy = some 1 ∧
    answer (.getEven 0) (voice Config.ref 0 0 0 0 3 false 0 0 false) = some 0 := by decide

theorem test_getAlt : answer (.getAlt 0) (voice Config.ref 0 0 0 0 3 false 0 0 false) = some 1 ∧
    answer (.getAlt 0) (voice Config.ref 0 0 0 0 5 false 0 0 false) = some 0 := by decide

/-- P1: the reads after the program, and the operand's bits ignored. -/
theorem test_reads : answer (.getPhase 7) busy = some 0xFFFFFFF0 ∧ answer (.getFreq 7) busy = some 0x03E80000 ∧
    answer (.getInc 7) busy = some 0x05555555 ∧ answer (.getGain 7) busy = some 0x00008000 := by decide

/-- R154's example: the cached sample is sign-extended. -/
theorem test_getLast : answer (.getLast 0) busy = some 0xFFFF8001 := by decide

/-- R150: everything but ILL starts anew. -/
theorem test_construct :
    after (.construct 0x0000BB80) (voice Config.ref 1 2 3 4 5 true 6 7 true) =
      some (⟨48000, 0, 0, 0, 0, false, 0, 0, true, true⟩, some 0) := by decide

/-- Section 2.3: ties round up, and both clamps. -/
theorem test_setGain :
    [0x00000003, 0x0000FFFF, 0x00020000, 0xFFFF0000].map (fun op => (after (.setGain op) busy).map fun r => r.1.gain) =
      [some 2, some 0x8000, some 0x8000, some 0] := by decide

/-- Section 2.3: the first sample of P1; the lookup is at the phase after the tick. -/
theorem test_process :
    after (.process 0) (voice Config.ref 48000 0x03E80000 0x05555555 0 0 false 0x8000 0 false) =
      some (⟨48000, 0x03E80000, 0x05555555, 0x05555555, 0, false, 0x8000, 4277, false, true⟩, some 0x000010B5) := by
  decide

/-- Section 2.3: the products round half up, below zero too. -/
theorem test_gain_multiply :
    (gainMul 15 32767 0x4000, gainMul 15 (-32767) 0x4000, gainMul 15 (-1) 0x4000, gainMul 15 (-3611) 0x2000) =
      (16384, -16383, 0, -903) := by decide

/-- R136: a falling and a negative segment; only the response changes. -/
theorem test_lookup : after (.lookup 0x84800000) busy = some (busy.view, some 0xFFFFF1E5) ∧
    answer (.lookup 0x40800000) busy = some 0x00007FFA := by decide

/-- L10 and L12: the table of 4096, a negative segment and the guard sample. -/
theorem test_lookup_4096 : (lookup Config.listed4096 0x80080000#32, lookup Config.listed4096 0xFFFFFFFF#32) = (-25, 0) := by
  decide

/-- K2: a NOP with operand bits. -/
theorem test_nop : after (.nop 0xFFFFFFFF) busy = some (busy.view, some 0) := by decide

/-- K4 and K5. -/
theorem test_getStatus : answer (.getStatus 0) busy = some 0x00000607 ∧
    answer (.getStatus 0) (voice Config.ref 0 0 0 0 255 false 0 0 true) = some 0x0001FF02 := by decide

/-- K7 and K8. -/
theorem test_reserved :
    ∀ i ∈ [Instr.reserved10to1F 0x10 0, .reserved20to3F 0x20 0, .reserved40to7F 0x7F 0, .reserved80toFF 0xFF 0x12345678],
      after i busy = some ({ busy.view with ill := true }, some 0) := by decide

/-- K3, from reset through the port: the response is offered in the cycle after acceptance (RSP_LATENCY 1). -/
theorem test_first_step : firstAnswer 0x0D00000000 = some 1 ∧ firstAnswer 0x0C84800000 = some 0xFFFFF1E5 := by decide

/-- A platform of `n + 1` voices of REF. -/
def platformOf (n : Nat) : PlatformConfig := ⟨Config.ref, n + 1, Nat.succ_pos n⟩

/-- Two voices; voice 1 is offered CONSTRUCT 48000. -/
def duet : Platform (platformOf 1) := Platform.reset (platformOf 1) #v[[], [PortEdge.command 0x010000BB80]]

/-- R18: one voice is a platform, no voices are refused. -/
theorem test_numVoices :
    (PlatformConfig.ofNumVoices? Config.ref 0, (PlatformConfig.ofNumVoices? Config.ref 1).map (·.numVoices)) =
      (none, some 1) := by decide

/-- R213 and R45: a voice's CONSTRUCT sets the shared bit and leaves the other voice alone. -/
theorem test_platform :
    (match duet.stepVoice (1 : Fin 2) with
      | .next p => some (p.tblBuilt, p.voices.toList.map fun v => v.regs.fs.toNat)
      | .fault _ => none
      | .refused _ => none) = some (true, [0, 48000]) := by decide

/-- R86: an operand literal in its range and one outside, and a command of form `none` given an operand. -/
theorem test_assembler :
    (assemble .setFreq (some (-1)), assemble .setFreq (some (2 ^ 32)), assemble .tick (some 0), assemble .tick none) =
      (some (.setFreq 0xFFFFFFFF), none, none, some (.tick 0)) := by decide

/-- R19, R232: the machine starts at the reset of the reference configuration. -/
theorem test_reset_is_ref : State.reset = State.resetWith Config.ref [] := rfl

/-! ### Witnesses: a case that meets the hypotheses of each obligation that has some -/

theorem witness_ResetEdgeResetsFromEveryState :
    (withEdges busy [⟨true, true, true, 0x0400000000⟩]).nextEdge.rst = true := by decide

theorem witness_UnacceptedWordHasNoEffect :
    ((withEdges busy [⟨false, false, true, 0x0400000000⟩]).nextEdge.rst = false ∧
      (withEdges busy [⟨false, false, true, 0x0400000000⟩]).nextEdge.cmdValid = false) ∧
    (withEdges busy [⟨false, true, false, 0x0400000000⟩]).nextEdge.rst = false ∧
      (withEdges busy [⟨false, true, false, 0x0400000000⟩]).nextEdge.cmdReady = false := by decide

/-- The state and the command of the next witness. -/
def stepping : State := withEdges busy [⟨false, true, true, 0x0203E80000⟩]

theorem witness_StepRunsTheDecodedCommand :
    (Instr.setFreq 0x03E80000).wellFormed = true ∧ stepping.nextEdge.cmdWord = encode (.setFreq 0x03E80000) ∧
      stepping.nextEdge.rst = false ∧ stepping.nextEdge.cmdValid = true ∧ stepping.nextEdge.cmdReady = true := by decide

theorem busy_inv : busy.Inv := by
  constructor <;> decide

/-- A voice that owes three responses, RSP_LATENCY 3, a command offered at the next edge. -/
def owing : State :=
  { State.resetWith narrow [PortEdge.command 0x0B00000000, PortEdge.idle] with
    inFlight := [⟨1, 11⟩, ⟨2, 22⟩, ⟨3, 33⟩] }

theorem owing_inv : owing.Inv := by
  constructor <;> decide

/-- The last response is owed for three cycles and offered after two edges (`k + 1 = q.due`), the first at once. -/
theorem witness_OwedResponseIsOfferedOnTime :
    (owing.Inv ∧ (⟨3, 33⟩ : Response) ∈ owing.inFlight ∧ (∀ e ∈ owing.edges.take 2, e.rst = false) ∧
      ∃ t, core.run 2 owing = .next t) ∧
    (⟨1, 11⟩ : Response) ∈ owing.inFlight ∧ (∀ e ∈ owing.edges.take 0, e.rst = false) ∧
      ∃ t, core.run 0 owing = .next t :=
  ⟨⟨owing_inv, by decide, by decide, ⟨_, rfl⟩⟩, by decide, by decide, ⟨_, rfl⟩⟩

/-- A response offered and a command accepted; neither. -/
theorem witness_ResponsesLeaveInAcceptanceOrder :
    (owing.nextEdge.rst = false ∧ owing.nextEdge.accepts = true ∧ owing.offeredResponse = some 11 ∧
      ∃ t, step owing = .next t) ∧
    busy.nextEdge.rst = false ∧ busy.nextEdge.accepts = false ∧ busy.offeredResponse = none ∧ ∃ t, step busy = .next t :=
  ⟨⟨by decide, by decide, by decide, ⟨_, rfl⟩⟩, by decide, by decide, by decide, ⟨_, rfl⟩⟩

/-- The ends of every reserved range are well formed. -/
theorem witness_DecodeOfEncodeIsIdentity :
    ∀ i ∈ [Instr.nop 0xFFFFFFFF, .reserved10to1F 0x10 1, .reserved10to1F 0x1F 1, .reserved20to3F 0x20 1,
      .reserved20to3F 0x3F 1, .reserved40to7F 0x40 1, .reserved40to7F 0x7F 1, .reserved80toFF 0x80 1,
      .reserved80toFF 0xFF 1], i.wellFormed = true := by decide

theorem witness_EachWordMatchesExactlyOneRow :
    (opcodeTable[0]? = some (.fixed 0x00) ∧ opcodeTable[19]? = some ⟨commandWord 0x80 0, commandWord 0x80 0⟩) ∧
    opcodeField 0x0200000000 = opcodeField 0x02FFFFFFFF := by decide

/-- Both ends of the range, and the values just outside. -/
theorem witness_PseudoInstructionsExpand :
    ((-32768 : Int) ≤ -32768 ∧ (-32768 : Int) ≤ 32767 ∧ (Pseudo.setFreqHz (-32768)).expand = some [.setFreq 0x80000000]) ∧
    ((Pseudo.setFreqHz 32767).expand = some [.setFreq 0x7FFF0000]) ∧
    (Pseudo.setFreqHz (-32769)).expand = none ∧ (Pseudo.setFreqHz 32768).expand = none ∧
    (Pseudo.processN 1).expand = some [.process 0] := by decide

/-- Both ends of the literals' range, the values just outside, and a command of form `none`. -/
theorem witness_AssemblerOperandsFollowTheForm :
    Mnemonic.lookup.takesOperand = true ∧ assemble .lookup (some (-(2 ^ 31))) = some (.lookup 0x80000000) ∧
    assemble .lookup (some (2 ^ 32 - 1)) = some (.lookup 0xFFFFFFFF) ∧ assemble .lookup (some (-(2 ^ 31) - 1)) = none ∧
    assemble .lookup (some (2 ^ 32)) = none ∧ Mnemonic.tick.takesOperand = false := by decide

theorem witness_IgnoredOperandBitsChangeNothing :
    (opcodeField 0x0B00000000 = opcodeField 0x0BFFFFFFFF ∧ (decode 0x0B00000000).operandForm = .none) ∧
    ((0x12344480 : Word).toNat % 2 ^ narrow.phaseBits = (0xABCD4480 : Word).toNat % 2 ^ narrow.phaseBits) ∧
    Mnemonic.tick.takesOperand = false := by decide

/-- A gain of exactly 1.0. -/
theorem witness_ProcessProducesOneSample : busy.view.gain ≤ 2 ^ busy.cfg.gainFracBits := by decide

theorem witness_ResetPhaseSetsPosition : busy.cfg.phaseBits = 32 ∧ narrow.phaseBits ≠ 32 := by decide

theorem witness_ReservedCommandSetsOnlyIll :
    0x10 ≤ (opcodeField 0x1000000000).toNat ∧ 0x10 ≤ (opcodeField 0xFF12345678).toNat := by decide

/-- A voice with ILL set. -/
def illegal : State := voice Config.ref 0 0 0 0 0 false 0 0 true

theorem witness_IllIsStickyAndSetByReservedOnly :
    (∃ t, exec (.reserved80toFF 0xFF 0) busy = .next t) ∧
    (∃ t, step illegal = .next t) ∧ illegal.nextEdge.rst = false ∧ illegal.view.ill = true :=
  ⟨⟨_, rfl⟩, ⟨_, rfl⟩, by decide, by decide⟩

/-- CONSTRUCT changes every register of this voice, TBL_BUILT too. -/
theorem witness_RegistersChangeOnlyByTheirWriters :
    ∃ t, exec (.construct 0x0000AC44) { busy with tblBuilt := false } = .next t ∧ t.view.phase ≠ busy.view.phase ∧
      t.view.inc ≠ busy.view.inc ∧ t.view.freq ≠ busy.view.freq ∧ t.view.fs ≠ busy.view.fs ∧
      t.view.cycleCount ≠ busy.view.cycleCount ∧ t.view.wrap ≠ busy.view.wrap ∧ t.view.gain ≠ busy.view.gain ∧
      t.view.last ≠ busy.view.last ∧ t.view.tblBuilt ≠ false :=
  ⟨_, rfl, by decide, by decide, by decide, by decide, by decide, by decide, by decide, by decide, by decide⟩

theorem witness_SampleOutChangesOnlyByItsWriters :
    ∃ t, step (withEdges busy [PortEdge.command 0x010000BB80]) = .next t ∧
      t.sampleOut.toInt ≠ (withEdges busy [PortEdge.command 0x010000BB80]).sampleOut.toInt :=
  ⟨_, rfl, by decide⟩

/-- One voice as the other platform's voice 1, with the bit set: the same voice in another place. -/
def solo : Platform (platformOf 0) := ⟨true, #v[duet.voices[1]]⟩

theorem witness_PlatformVoicesShareOneRom :
    (∃ q, duet.stepVoice (1 : Fin 2) = .next q) ∧
    (duet.voice (1 : Fin 2)).edges.head? = some (.command (encode (.construct 48000))) ∧
    ∃ pc, PlatformConfig.ofNumVoices? Config.ref 1 = some pc :=
  ⟨⟨_, rfl⟩, by decide, ⟨_, rfl⟩⟩

theorem witness_VoicesAreIsolated :
    (∃ q, duet.stepVoice (1 : Fin 2) = .next q) ∧ (0 : Fin 2) ≠ 1 ∧
    duet.voices[(1 : Fin 2)] = solo.voices[(0 : Fin 1)] ∧ duet.tblBuilt ≠ solo.tblBuilt :=
  ⟨⟨_, rfl⟩, by decide, rfl, by decide⟩

/-- A tick and a PROCESS, and a tick with INC = 0. -/
theorem witness_TicksCountWrapsExactly_one :
    (∃ t, exec (.tick 0) busy = .next t) ∧ (∃ t, exec (.process 0) busy = .next t) ∧
    (∃ t, exec (.tick 0) illegal = .next t) ∧ illegal.view.inc = 0 :=
  ⟨⟨_, rfl⟩, ⟨_, rfl⟩, ⟨_, rfl⟩, by decide⟩

/-- Two edges: a TICK and a PROCESS. -/
theorem witness_TicksCountWrapsExactly_many :
    ∀ j < 2, ∃ op, (withEdges busy [.command 0x0B00000000, .command 0x0400000000]).edges[j]? =
        some (.command (encode (.tick op))) ∨
      (withEdges busy [.command 0x0B00000000, .command 0x0400000000]).edges[j]? =
        some (.command (encode (.process op)))
  | 0, _ => ⟨0, .inl (by decide)⟩
  | 1, _ => ⟨0, .inr (by decide)⟩
  | n + 2, h => absurd h (by omega)

/-- Three ticks of a voice at 3 Hz, set to 1 Hz: `n` at its least. -/
def threeTicks : State :=
  withEdges (voice Config.ref 3 0 0 7 0 false 0 0 false)
    [.command 0x0200010000, .command 0x0B00000000, .command 0x0B00000000, .command 0x0400000000]

theorem witness_PhaseDriftOverOnePeriod :
    3 ≤ 3 ∧ 1 ≤ threeTicks.view.fs ∧ threeTicks.view.fs ≤ 65535 ∧
    (0x00010000 : Word).toInt * (3 : Nat) = threeTicks.view.fs * 2 ^ 16 ∧
    threeTicks.edges.head? = some (.command (encode (.setFreq 0x00010000))) ∧
    (∀ j < 3, ∃ op', threeTicks.edges[j + 1]? = some (.command (encode (.tick op'))) ∨
      threeTicks.edges[j + 1]? = some (.command (encode (.process op')))) :=
  ⟨by decide, by decide, by decide, by decide, by decide, fun j h => ⟨0, by
    have : ∀ j < 3, threeTicks.edges[j + 1]? = some (.command (encode (.tick 0))) ∨
      threeTicks.edges[j + 1]? = some (.command (encode (.process 0))) := by decide
    exact this j h⟩⟩

/-- A voice with FS 48000 and one with FS 65536, at the clauses' bounds. -/
theorem witness_ClampedFrequencyIsBelowNyquist :
    (∃ t, exec (.setFreq 0xFFFFFFFF) illegal = .next t) ∧ illegal.view.fs = 0 ∧
    (busy.view.fs ≠ 0 ∧ (0xFFFFFFFF : Word).toInt < 0) ∧
    (0 ≤ (0x5DBFFFFF : Word).toInt ∧ (0x5DBFFFFF : Word).toInt < busy.view.fs * 2 ^ 15) ∧
    65536 ≤ (voice Config.ref 65536 0 0 0 0 false 0 0 false).view.fs ∧ 0 ≤ (0x7FFFFFFF : Word).toInt :=
  ⟨⟨_, rfl⟩, by decide, by decide, by decide, by decide, by decide⟩

theorem witness_IncrementIsTheNearestRatio : busy.view.fs ≠ 0 ∧ ∃ t, exec (.setFreq 1) busy = .next t :=
  ⟨by decide, ⟨_, rfl⟩⟩

theorem witness_NoTwoConsecutiveWraps :
    busy.Inv ∧ (∃ t u, exec (.tick 0) busy = .next t ∧ exec (.process 0) t = .next u ∧ t.view.wrap = true) ∧
      ∃ t u, exec (.process 0) busy = .next t ∧ exec (.tick 0) t = .next u ∧ t.view.wrap = true :=
  ⟨busy_inv, ⟨_, _, rfl, rfl, by decide⟩, _, _, rfl, rfl, by decide⟩

theorem witness_RomHoldsTheRoundedSine :
    (0 : Fin (Config.ref.tableSize + 1)).val < Config.ref.tableSize ∧
    (⟨255, by decide⟩ : Fin (Config.ref.tableSize + 1)).val < Config.ref.tableSize := by decide

theorem witness_BothRoundingsGiveTheSameTable :
    (0 : Fin (Config.ref.tableSize + 1)).val < Config.ref.tableSize ∧
    (⟨255, by decide⟩ : Fin (Config.ref.tableSize + 1)).val < Config.ref.tableSize := by decide

theorem witness_RomGuardAndSymmetry :
    (1 ≤ 1 ∧ 1 < Config.ref.tableSize) ∧ (1 ≤ 255 ∧ 255 < Config.ref.tableSize) ∧ 2 ≤ Config.ref.tableBits := by decide

theorem witness_RomListing256 : Config.ref.tableBits = 8 ∧ Config.ref.sampleBits = 16 := by decide

theorem witness_RomListing4096 : Config.listed4096.tableBits = 12 ∧ Config.listed4096.sampleBits = 16 := by decide

/-- A rising and a falling segment, two phases each. -/
theorem witness_LookupNeverOvershoots :
    (indexField Config.ref 0x00000000#32 = indexField Config.ref 0x00FFFFFF#32 ∧
      fractionField Config.ref 0x00000000#32 ≤ fractionField Config.ref 0x00FFFFFF#32 ∧
      nodeBefore Config.ref 0x00000000#32 ≤ nodeAfter Config.ref 0x00000000#32) ∧
    indexField Config.ref 0x80000000#32 = indexField Config.ref 0x80800000#32 ∧
      fractionField Config.ref 0x80000000#32 ≤ fractionField Config.ref 0x80800000#32 ∧
      nodeAfter Config.ref 0x80000000#32 ≤ nodeBefore Config.ref 0x80000000#32 := by decide

theorem witness_LookupIsContinuousAcrossTheGuard :
    |tableEntry Config.ref Config.ref.tableSize - tableEntry Config.ref (Config.ref.tableSize - 1)| <
      2 ^ (Config.ref.fracBits - 1) := by decide

theorem witness_WidenedProductsFit : 0x8000 ≤ 2 ^ Config.ref.gainFracBits := by decide

/-- The four gains, each on a voice of REF. -/
theorem witness_GainLaws :
    (∃ t, exec (.process 0) busy = .next t) ∧ busy.view.gain = 2 ^ busy.cfg.gainFracBits ∧ illegal.view.gain = 0 ∧
    (voice Config.ref 0 0 0 0 0 false 0x2000 0 false).view.gain * 4 = 2 ^ Config.ref.gainFracBits ∧
    (voice Config.ref 0 0 0 0 0 false 0x4000 0 false).view.gain * 2 = 2 ^ Config.ref.gainFracBits :=
  ⟨⟨_, rfl⟩, by decide, by decide, by decide, by decide⟩

theorem witness_GainMultiplyRoundsHalfUp : 1 ≤ 15 ∧ 0x8000 ≤ 2 ^ 15 := by decide

theorem witness_GainQuantizationRoundsHalfUp : ∃ t, exec (.setGain 0x00000003) busy = .next t := ⟨_, rfl⟩

theorem witness_EveryStepKeepsTheInvariant : owing.Inv ∧ ∃ t, step owing = .next t := ⟨owing_inv, _, rfl⟩

/-- A state two edges after reset. -/
theorem witness_ReachableRegistersLieInTheirRanges :
    ∃ s, Reachable s ∧ s.view.fs = 48000 ∧ s.view.inc = 0x05555555 :=
  ⟨_, .step (.step (.reset Config.ref [.command 0x010000BB80, .command 0x0203E80000]) rfl) rfl, by decide, by decide⟩

theorem witness_OnlyLegalParametersConfigure : Config.ref.toParams.toConfig? = some Config.ref := by decide

end Sys2Proof.Tests
end

section
/-!
PROOFS, scope (spec/00_scope.md). A command word offered on the port is decoded back to itself and executed, so a CONSTRUCT
accepted by one voice sets the bit all voices of the platform share.
-/

namespace Sys2Proof

/-- Decoding a command's word is decoding its fields: with the lemmas of Laws/PerInstr.lean, R81 for one command. -/
theorem decode_encode_of_fields {i : Instr} (h : decodeFields i.opcode i.operand = i) : decode (encode i) = i := by
  rw [decode, encode, opcodeField_commandWord, operandField_commandWord, h]

@[simp] theorem decode_encode_construct (op : Word) : decode (encode (.construct op)) = .construct op :=
  decode_encode_of_fields (Laws.Fields.construct op rfl)

namespace Machine

/-! ### A command on the port -/

/-- An edge that offers a command to a ready block executes it (R72). -/
theorem step_of_command {s : State} {w : CmdWord} (h : s.edges.head? = some (.command w)) :
    step s = exec (decode w) s.pastEdge.clock := by
  have hw : s.nextEdge = .command w := nextEdge_of_head h
  simpa [hw] using step_of_accepts (s := s) (by simp [hw]) (by simp [hw])

theorem exec_construct_tblBuilt {op : Word} {s t : State} (h : exec (.construct op) s = .next t) : t.tblBuilt = true := by
  cases h; rfl

theorem step_construct_tblBuilt {op : Word} {s t : State}
    (he : s.edges.head? = some (.command (encode (.construct op)))) (h : step s = .next t) : t.tblBuilt = true := by
  rw [step_of_command he, decode_encode_construct] at h
  exact exec_construct_tblBuilt h

/-! ### The number of voices, and the bit the voices share -/

theorem PlatformConfig.ofNumVoices?_isSome_iff (c : Config) (n : Nat) :
    (PlatformConfig.ofNumVoices? c n).isSome = true ↔ 1 ≤ n := by
  simp [PlatformConfig.ofNumVoices?]

theorem PlatformConfig.ofNumVoices?_eq_some_iff (c : Config) (n : Nat) (pc : PlatformConfig) :
    PlatformConfig.ofNumVoices? c n = some pc ↔ pc.voice = c ∧ pc.numVoices = n := by
  obtain ⟨voice, numVoices, atLeastOne⟩ := pc
  unfold PlatformConfig.ofNumVoices?
  constructor
  · intro h
    split at h <;> cases h
    exact ⟨rfl, rfl⟩
  · rintro ⟨rfl, rfl⟩
    exact dif_pos atLeastOne

/-- R45: a CONSTRUCT accepted by one voice sets the platform's bit, whatever it was before. -/
theorem stepVoice_construct_tblBuilt {pc : PlatformConfig} {p q : Platform pc} {k : Fin pc.numVoices} {op : Word}
    (he : (p.voice k).edges.head? = some (.command (encode (.construct op)))) (h : p.stepVoice k = .next q) :
    q.tblBuilt = true := by
  obtain ⟨t, ht, rfl⟩ := stepVoice_cases h
  exact step_construct_tblBuilt he ht

end Machine

open Machine

/-- Settles O53: configuration and bit stand once in the platform, and a step of any voice writes its bit back there. -/
theorem platformVoicesShareOneRom : Obligations.PlatformVoicesShareOneRom := by
  refine ⟨PlatformConfig.ofNumVoices?_isSome_iff, fun c n pc => (PlatformConfig.ofNumVoices?_eq_some_iff c n pc).1,
    reset_voice, fun pc p k j => ⟨pc.atLeastOne, voice_cfg p j, voice_tblBuilt p j, fun i => ?_, fun q op h he => ?_⟩⟩
  · rw [voice_cfg, voice_cfg]
  · rw [voice_tblBuilt]
    exact stepVoice_construct_tblBuilt he h

end Sys2Proof
end

section
/-!
PROOFS, state (spec/10_state.md). `View.after` is the register file after a command, in the integers of the rules, and
`exec_view` ties it to `exec`: the writers of each register and the ranges of R47 are then facts about `View.after`. The
invariant has two halves, the registers' ranges and the order of the owed responses, and a clock edge keeps both.
-/

namespace Sys2Proof

theorem decodeFields_isReserved (opc : Byte) (op : Word) :
    (decodeFields opc op).isReserved = true ↔ 0x10 ≤ opc.toNat := by
  by_cases h : 0x10 ≤ opc.toNat
  · rw [Laws.Fields.decodeFields_reserved h]
    split_ifs <;> exact iff_of_true rfl h
  · refine iff_of_false ?_ h
    unfold decodeFields
    generalize opc.toNat = n at h
    interval_cases n <;> exact Bool.false_ne_true

/-- The reserved commands are the words with an opcode of 0x10 or more (R79, R81). -/
theorem decode_isReserved (w : CmdWord) : (decode w).isReserved = true ↔ 0x10 ≤ (opcodeField w).toNat :=
  decodeFields_isReserved _ _

namespace Machine

/-! ### The register file after a command -/

/-- The registers after `tick_step()` (R102). -/
def View.tick (c : Config) (v : View) : View :=
  let phase := (v.phase + v.inc) % 2 ^ c.phaseBits
  let wrap := decide (phase < v.inc)
  { v with phase := phase, wrap := wrap, cycleCount := (v.cycleCount + wrap.toNat) % 256 }

/-- The sample PROCESS computes, at the phase after its tick (R153). -/
def View.sample (c : Config) (v : View) : Int := gainMul c.gainFracBits (lookupValue c (v.tick c).phase) v.gain

/-- The registers after a command: one line for each command that writes any; the others only read. -/
def View.after (c : Config) (v : View) : Instr → View
  | .construct op => { View.reset with fs := op.toNat, ill := v.ill, tblBuilt := true }
  | .setFreq op =>
    let fc := clampFreq op.toInt v.fs
    { v with freq := fc, inc := incOf c.phaseBits fc v.fs }
  | .setGain op => { v with gain := quantizeGain c.gainFracBits op.toInt }
  | .process _ => { v.tick c with last := (BitVec.ofInt c.sampleBits (v.sample c)).toInt }
  | .resetPhase op =>
    { v with
      phase := resetPosition c.phaseBits op.toNat, cycleCount := if op.toNat = 0 then 0 else v.cycleCount }
  | .tick _ => v.tick c
  | .reserved10to1F _ _ | .reserved20to3F _ _ | .reserved40to7F _ _ | .reserved80toFF _ _ => { v with ill := true }
  | _ => v

/-- A tick of the machine's registers is a tick of their view, whatever LAST becomes. -/
theorem view_tickStep (s : State) (last : BitVec s.cfg.sampleBits) :
    ({ s with regs := { tickStep s.regs with last := last } } : State).view =
      { s.view.tick s.cfg with last := last.toInt } := by
  simp only [view_mk, View.tick, tickStep_phase, tickStep_wrap, tickStep_cycleCount]
  rfl

theorem exec_construct_view {s t : State} {op : Word} (h : exec (.construct op) s = .next t) :
    t.view = s.view.after s.cfg (.construct op) := by
  cases h
  simp [view_mk, View.after, View.reset, Regs.reset, operandU32]

theorem exec_setFreq_view {s t : State} {op : Word} (h : exec (.setFreq op) s = .next t) :
    t.view = s.view.after s.cfg (.setFreq op) := by
  have hf : clampFreq op.toInt s.regs.fs.toNat < 2 ^ 32 :=
    (clampFreq_lt_two_pow BitVec.toInt_lt _).trans (by norm_num)
  have hi := incOf_lt (Nat.one_le_of_lt s.cfg.tableBits_lt) op.toInt s.regs.fs.toNat
  cases h
  simp only [respond_view, view_mk, View.after, operandSQ, BitVec.toNat_ofNat, Nat.mod_eq_of_lt hf, Nat.mod_eq_of_lt hi]
  rfl

theorem exec_setGain_view {s t : State} {op : Word} (h : exec (.setGain op) s = .next t) :
    t.view = s.view.after s.cfg (.setGain op) := by
  have hg : quantizeGain s.cfg.gainFracBits op.toInt < 2 ^ (s.cfg.gainFracBits + 1) :=
    (quantizeGain_le s.cfg.one_le_gainFracBits s.cfg.gainFracBits_le _).trans_lt (Nat.pow_lt_pow_succ (by norm_num))
  cases h
  simp only [respond_view, view_mk, View.after, operandSQ, BitVec.toNat_ofNat, Nat.mod_eq_of_lt hg]
  rfl

theorem exec_process_view {s t : State} {op : Word} (h : exec (.process op) s = .next t) :
    t.view = s.view.after s.cfg (.process op) := by
  cases h
  rw [respond_view, view_tickStep, lookup_eq_lookupValue, tickStep_phase]
  rfl

theorem exec_resetPhase_view {s t : State} {op : Word} (h : exec (.resetPhase op) s = .next t) :
    t.view = s.view.after s.cfg (.resetPhase op) := by
  cases h
  by_cases hop : op.toNat = 0 <;>
    simp [view_mk, View.after, operandUQ, hop, Nat.mod_eq_of_lt (resetPosition_lt _ _)]

/-- What a command does to the registers, said once for all commands and states. -/
theorem exec_view {i : Instr} {s t : State} (h : exec i s = .next t) : t.view = s.view.after s.cfg i := by
  cases i with
  | construct op => exact exec_construct_view h
  | setFreq op => exact exec_setFreq_view h
  | setGain op => exact exec_setGain_view h
  | process op => exact exec_process_view h
  | resetPhase op => exact exec_resetPhase_view h
  | tick op => cases h; exact view_tickStep s s.regs.last
  | _ => cases h; rfl

/-! ### What a command does to the rest of the state -/

theorem exec_edges {i : Instr} {s t : State} (h : exec i s = .next t) : t.edges = s.edges := by
  cases i <;> cases h <;> rfl

/-- Every command owes one response, due RSP_LATENCY cycles on (R72). -/
theorem exec_inFlight {i : Instr} {s t : State} (h : exec i s = .next t) :
    ∃ r, t.inFlight = s.inFlight ++ [⟨s.cfg.rspLatency, r⟩] := by
  cases i <;> cases h <;> exact ⟨_, rfl⟩

/-! ### The writers of each register (R47) -/

section Writers

variable {c : Config} {v : View} {i : Instr}

theorem phase_writer (h : (v.after c i).phase ≠ v.phase) :
    ∃ op, i = .tick op ∨ i = .process op ∨ i = .resetPhase op ∨ i = .construct op := by
  cases i with
  | tick op | process op | resetPhase op | construct op => exact ⟨op, by simp⟩
  | _ => exact absurd rfl h

theorem cycleCount_writer (h : (v.after c i).cycleCount ≠ v.cycleCount) :
    ∃ op, i = .tick op ∨ i = .process op ∨ i = .resetPhase op ∨ i = .construct op := by
  cases i with
  | tick op | process op | resetPhase op | construct op => exact ⟨op, by simp⟩
  | _ => exact absurd rfl h

theorem wrap_writer (h : (v.after c i).wrap ≠ v.wrap) : ∃ op, i = .tick op ∨ i = .process op ∨ i = .construct op := by
  cases i with
  | tick op | process op | construct op => exact ⟨op, by simp⟩
  | _ => exact absurd rfl h

theorem inc_writer (h : (v.after c i).inc ≠ v.inc) : ∃ op, i = .setFreq op ∨ i = .construct op := by
  cases i with
  | setFreq op | construct op => exact ⟨op, by simp⟩
  | _ => exact absurd rfl h

theorem freq_writer (h : (v.after c i).freq ≠ v.freq) : ∃ op, i = .setFreq op ∨ i = .construct op := by
  cases i with
  | setFreq op | construct op => exact ⟨op, by simp⟩
  | _ => exact absurd rfl h

theorem gain_writer (h : (v.after c i).gain ≠ v.gain) : ∃ op, i = .setGain op ∨ i = .construct op := by
  cases i with
  | setGain op | construct op => exact ⟨op, by simp⟩
  | _ => exact absurd rfl h

theorem last_writer (h : (v.after c i).last ≠ v.last) : ∃ op, i = .process op ∨ i = .construct op := by
  cases i with
  | process op | construct op => exact ⟨op, by simp⟩
  | _ => exact absurd rfl h

theorem fs_writer (h : (v.after c i).fs ≠ v.fs) : ∃ op, i = .construct op := by
  cases i with
  | construct op => exact ⟨op, rfl⟩
  | _ => exact absurd rfl h

theorem tblBuilt_writer (h : (v.after c i).tblBuilt ≠ v.tblBuilt) :
    (v.after c i).tblBuilt = true ∧ ∃ op, i = .construct op := by
  cases i with
  | construct op => exact ⟨rfl, op, rfl⟩
  | _ => exact absurd rfl h

theorem after_ill : (v.after c i).ill = (v.ill || i.isReserved) := by
  cases i with
  | reserved10to1F | reserved20to3F | reserved40to7F | reserved80toFF => exact (Bool.or_true _).symm
  | _ => exact (Bool.or_false _).symm

end Writers

theorem exec_ill {i : Instr} {s t : State} (h : exec i s = .next t) : t.view.ill = (s.view.ill || i.isReserved) := by
  rw [exec_view h, after_ill]

theorem step_ill_sticky {s t : State} (h : step s = .next t) (hr : s.nextEdge.rst = false) (hs : s.view.ill = true) :
    t.view.ill = true := by
  obtain ⟨hrst, -⟩ | ⟨-, -, hexec⟩ | ⟨-, -, rfl⟩ := step_cases h
  · exact absurd (hr.symm.trans hrst) Bool.false_ne_true
  · rw [exec_ill hexec, clock_view, pastEdge_view, hs, Bool.true_or]
  · exact hs

/-! ### TBL_BUILT is read by nothing (R45) -/

/-- From states that differ in TBL_BUILT alone, a command leads to states that differ in it alone: CONSTRUCT sets the bit, no
other command touches it. -/
theorem exec_tblBuilt (i : Instr) (s : State) (b : Bool) :
    ∃ (t : State) (b' : Bool), exec i s = .next t ∧ exec i { s with tblBuilt := b } = .next { t with tblBuilt := b' } := by
  cases i with
  | construct op => exact ⟨_, true, rfl, rfl⟩
  | _ => exact ⟨_, b, rfl, rfl⟩

theorem step_tblBuilt (s : State) (b : Bool) :
    ∃ (t : State) (b' : Bool), step s = .next t ∧ step { s with tblBuilt := b } = .next { t with tblBuilt := b' } := by
  cases hr : s.nextEdge.rst with
  | true => exact ⟨_, false, step_of_rst hr, step_of_rst (s := { s with tblBuilt := b }) hr⟩
  | false =>
    cases ha : s.nextEdge.accepts with
    | true =>
      rw [step_of_accepts hr ha, step_of_accepts (s := { s with tblBuilt := b }) hr ha]
      exact exec_tblBuilt _ s.pastEdge.clock b
    | false => exact ⟨_, b, step_of_idle hr ha, step_of_idle (s := { s with tblBuilt := b }) hr ha⟩

/-! ### The registers' half of the invariant -/

/-- The ranges and relations of the registers that `State.Inv` claims (`inv_iff`). -/
structure View.InRange (c : Config) (v : View) : Prop where
  freq_clamped : (v.fs = 0 ∧ v.freq = 0) ∨ v.freq < v.fs * 2 ^ 15
  freq_nonneg : v.freq < 2 ^ 31
  inc_of_freq : v.inc = incOf c.phaseBits v.freq v.fs
  gain_le_one : v.gain ≤ 2 ^ c.gainFracBits
  last_bounded : -(c.peak : Int) ≤ v.last ∧ v.last ≤ c.peak
  unbuilt_fs : v.tblBuilt = false → v.fs = 0

theorem inRange_reset (c : Config) : View.reset.InRange c where
  freq_clamped := .inl ⟨rfl, rfl⟩
  freq_nonneg := by decide
  inc_of_freq := rfl
  gain_le_one := Nat.zero_le _
  last_bounded := ⟨neg_nonpos.2 (Int.natCast_nonneg _), Int.natCast_nonneg _⟩
  unbuilt_fs _ := rfl

/-- With a gain of at most 1.0 the sample of PROCESS lies within the peaks (R152), so LAST holds it unchanged. -/
theorem sample_bounds {c : Config} {v : View} (hg : v.gain ≤ 2 ^ c.gainFracBits) :
    -(c.peak : Int) ≤ v.sample c ∧ v.sample c ≤ c.peak := by
  have hphase : (BitVec.ofNat c.phaseBits (v.phase + v.inc)).toNat = (v.tick c).phase := BitVec.toNat_ofNat _ _
  rw [View.sample, ← hphase, ← lookup_eq_lookupValue]
  exact gainMul_lookup_bounds c _ hg

/-- Every command keeps the ranges of the registers. -/
theorem View.InRange.after {c : Config} {v : View} (h : v.InRange c) (i : Instr) : (v.after c i).InRange c := by
  obtain ⟨hclamped, hnonneg, hinc, hgain, hlast, hunbuilt⟩ := h
  cases i with
  | construct op =>
    have hreset := inRange_reset c
    refine ⟨?_, hreset.freq_nonneg, (incOf_zero_freq _ _).symm, hreset.gain_le_one, hreset.last_bounded, nofun⟩
    rcases Nat.eq_zero_or_pos op.toNat with h0 | hpos
    · exact .inl ⟨h0, rfl⟩
    · exact .inr (Nat.mul_pos hpos (by norm_num))
  | setFreq op =>
    refine ⟨?_, clampFreq_lt_two_pow BitVec.toInt_lt _, rfl, hgain, hlast, hunbuilt⟩
    rcases eq_or_ne v.fs 0 with h0 | h0
    · exact .inl ⟨h0, h0 ▸ clampFreq_zero _⟩
    · exact .inr (clampFreq_lt h0)
  | setGain op =>
    exact ⟨hclamped, hnonneg, hinc, quantizeGain_le c.one_le_gainFracBits c.gainFracBits_le _, hlast, hunbuilt⟩
  | process op =>
    obtain ⟨hlo, hhi⟩ := sample_bounds hgain
    refine ⟨hclamped, hnonneg, hinc, hgain, ?_, hunbuilt⟩
    rw [View.after, toInt_ofInt_of_peak c hlo hhi]
    exact ⟨hlo, hhi⟩
  | _ => exact ⟨hclamped, hnonneg, hinc, hgain, hlast, hunbuilt⟩

/-! ### The responses' half of the invariant -/

/-- The responses `l` are owed in order, no two in one cycle, each for at least one and at most `n` cycles (R72). -/
structure OwedWithin (n : Nat) (l : List Response) : Prop where
  ordered : l.Pairwise fun a b => a.due < b.due
  due : ∀ q ∈ l, 1 ≤ q.due ∧ q.due ≤ n

theorem owedWithin_nil (n : Nat) : OwedWithin n [] := ⟨.nil, by simp⟩

/-- After a clock cycle every response is due a cycle sooner. -/
theorem OwedWithin.clock {n : Nat} {l : List Response} (h : OwedWithin n l) :
    OwedWithin (n - 1) (clockResponses l) := by
  obtain ⟨hordered, hdue⟩ := clockResponses_inv h.ordered h.due
  exact ⟨hordered, fun q hq => ⟨(hdue q hq).1, Nat.le_sub_of_add_le (hdue q hq).2⟩⟩

theorem OwedWithin.mono {m n : Nat} {l : List Response} (h : OwedWithin m l) (hmn : m ≤ n) : OwedWithin n l :=
  ⟨h.ordered, fun q hq => ⟨(h.due q hq).1, (h.due q hq).2.trans hmn⟩⟩

/-- A new response comes after all those due sooner. -/
theorem OwedWithin.append {n : Nat} {l : List Response} (h : OwedWithin (n - 1) l) (hn : 1 ≤ n) (r : Word) :
    OwedWithin n (l ++ [⟨n, r⟩]) := by
  refine ⟨List.pairwise_append.2 ⟨h.ordered, List.pairwise_singleton _ _, fun a ha b hb => ?_⟩, fun q hq => ?_⟩
  · obtain rfl := List.mem_singleton.1 hb
    exact Nat.lt_of_le_sub_one hn (h.due a ha).2
  · rcases List.mem_append.1 hq with hq | hq
    · exact (h.mono (Nat.sub_le n 1)).due q hq
    · obtain rfl := List.mem_singleton.1 hq
      exact ⟨hn, le_rfl⟩

/-! ### The invariant over a clock edge -/

theorem inv_iff (s : State) : s.Inv ↔ s.view.InRange s.cfg ∧ OwedWithin s.cfg.rspLatency s.inFlight := by
  constructor
  · rintro ⟨hclamped, hnonneg, hinc, hgain, hlast, hordered, hdue, hunbuilt⟩
    exact ⟨⟨hclamped, hnonneg, hinc, hgain, hlast, hunbuilt⟩, hordered, hdue⟩
  · rintro ⟨⟨hclamped, hnonneg, hinc, hgain, hlast, hunbuilt⟩, hordered, hdue⟩
    exact ⟨hclamped, hnonneg, hinc, hgain, hlast, hordered, hdue, hunbuilt⟩

theorem resetWith_inv (c : Config) (es : List PortEdge) : (State.resetWith c es).Inv :=
  (inv_iff _).2 ⟨resetWith_view c es ▸ inRange_reset c, owedWithin_nil _⟩

theorem resetEvent_inv (s : State) : s.resetEvent.Inv :=
  (inv_iff _).2 ⟨resetEvent_view s ▸ inRange_reset s.cfg, owedWithin_nil _⟩

theorem clock_inv {s : State} (h : s.Inv) : s.clock.Inv := by
  obtain ⟨hregs, howed⟩ := (inv_iff s).1 h
  exact (inv_iff _).2 ⟨hregs, howed.clock.mono (Nat.sub_le _ 1)⟩

/-- A command keeps the invariant at an edge, where the clock cycle has made room for one response more. -/
theorem exec_clock_inv {i : Instr} {s t : State} (hs : s.Inv) (h : exec i s.clock = .next t) : t.Inv := by
  obtain ⟨hregs, howed⟩ := (inv_iff s).1 hs
  obtain ⟨r, hflight⟩ := exec_inFlight h
  rw [inv_iff, exec_cfg h, exec_view h, hflight]
  exact ⟨hregs.after i, howed.clock.append s.cfg.one_le_rspLatency r⟩

theorem pastEdge_inv {s : State} (h : s.Inv) : s.pastEdge.Inv := (inv_iff _).2 ((inv_iff s).1 h)

theorem step_inv {s t : State} (hs : s.Inv) (h : step s = .next t) : t.Inv := by
  obtain ⟨-, rfl⟩ | ⟨-, -, hexec⟩ | ⟨-, -, rfl⟩ := step_cases h
  · exact resetEvent_inv _
  · exact exec_clock_inv (pastEdge_inv hs) hexec
  · exact clock_inv (pastEdge_inv hs)

theorem Reachable.inv {s : State} (h : Reachable s) : s.Inv := by
  induction h with
  | reset c es => exact resetWith_inv c es
  | step _ hstep ih => exact step_inv ih hstep

/-- An increment is at most half a turn, because its frequency is below Nyquist (R34, R101). -/
theorem View.InRange.inc_le {c : Config} {v : View} (h : v.InRange c) : v.inc ≤ 2 ^ (c.phaseBits - 1) := by
  rw [h.inc_of_freq]
  rcases h.freq_clamped with ⟨hfs, -⟩ | hfreq
  · rw [hfs, incOf_zero]
    exact Nat.zero_le _
  · exact incOf_le (Nat.one_le_of_lt c.tableBits_lt) hfreq

end Machine

open Machine

/-- Settles O50: an edge resets, or moves the owed responses on by a cycle and then runs at most one command, which keeps the
registers in range and owes its response after all others. -/
theorem everyStepKeepsTheInvariant : Obligations.EveryStepKeepsTheInvariant := fun _ _ => step_inv

/-- Settles O27, from what a command does to ILL and from the opcodes the decoder takes for reserved. -/
theorem illIsStickyAndSetByReservedOnly : Obligations.IllIsStickyAndSetByReservedOnly := by
  refine ⟨fun _ _ _ => exec_ill, fun _ _ => step_ill_sticky, fun w => ⟨decode_isReserved w, fun hw => ?_⟩⟩
  have hnot : ¬(decode w).isReserved = true := mt (decode_isReserved w).1 (Nat.not_le.2 hw)
  rw [causeOf, if_neg hnot, Cause.code]

/-- Settles O28, register by register from the command's effect on the register file. -/
theorem registersChangeOnlyByTheirWriters : Obligations.RegistersChangeOnlyByTheirWriters := by
  intro i s t h
  rw [exec_view h]
  exact ⟨phase_writer, inc_writer, freq_writer, fs_writer, cycleCount_writer, wrap_writer, gain_writer, last_writer,
    tblBuilt_writer, exec_cfg h, exec_edges h⟩

/-- Settles O30: no clock edge reads the bit, and the response port shows the owed responses alone. -/
theorem tblBuiltIsInvisible : Obligations.TblBuiltIsInvisible := by
  intro s b
  obtain ⟨t, b', ht, ht'⟩ := step_tblBuilt s b
  exact ⟨t, b', ht, ht', rfl⟩

/-- Settles O51: the invariant holds in every reachable state and gives the ranges. -/
theorem reachableRegistersLieInTheirRanges : Obligations.ReachableRegistersLieInTheirRanges := by
  intro s hs
  obtain ⟨hregs, -⟩ := (inv_iff s).1 hs.inv
  exact ⟨hregs.inc_le, hregs.freq_nonneg, hregs.freq_clamped.imp_left And.right, hregs.gain_le_one, hregs.last_bounded⟩

end Sys2Proof
end

section
/-!
PROOFS, memory (spec/20_memory.md). An entry is the integer strictly nearest to `PEAK * sin`, so every rounding rule names
it, and so does rounding the fixed-point sine of Laws/SineFixed.lean, which the kernel evaluates fast: the listings of R56
and R57 are compared with that over half a turn, and the other half is its negative.
-/

namespace Sys2Proof

/-! ### Configurations -/

theorem Config.one_le_peakBits (c : Config) : 1 ≤ c.sampleBits - 1 := Nat.le_sub_of_add_le c.two_le_sampleBits

theorem Config.peakBits_le (c : Config) : c.sampleBits - 1 ≤ 31 := Nat.sub_le_of_le_add c.sampleBits_le

theorem Config.tableSize_pos (c : Config) : 0 < c.tableSize := Nat.two_pow_pos _

theorem Config.half_tableSize_mul (c : Config) : c.tableSize / 2 * 2 = c.tableSize :=
  Nat.div_mul_cancel (dvd_pow_self 2 (Nat.one_le_iff_ne_zero.1 c.one_le_tableBits))

theorem Config.quarter_tableSize_mul {c : Config} (h : 2 ≤ c.tableBits) : c.tableSize / 4 * 4 = c.tableSize :=
  Nat.div_mul_cancel (pow_dvd_pow 2 h)

namespace Machine

/-! ### The integer strictly nearest to a real number -/

theorem eq_floor_of_near {n : ℤ} {x : ℝ} (h : |(n : ℝ) - x| < 1 / 2) : n = ⌊x + 1 / 2⌋ := by
  obtain ⟨hlow, hhigh⟩ := abs_lt.1 h
  refine (Int.floor_eq_iff.2 ⟨?_, ?_⟩).symm <;> linarith

theorem eq_of_near {n m : ℤ} {x : ℝ} (hn : |(n : ℝ) - x| < 1 / 2) (hm : |(m : ℝ) - x| < 1 / 2) : n = m :=
  (eq_floor_of_near hn).trans (eq_floor_of_near hm).symm

/-- Below 0, rounding halves away from zero is rounding the negative number half up. -/
theorem eq_roundAway_of_near {n : ℤ} {x : ℝ} (h : |(n : ℝ) - x| < 1 / 2) : n = roundAway x := by
  unfold roundAway
  split_ifs
  · exact eq_floor_of_near h
  · have hneg : |((-n : ℤ) : ℝ) - -x| < 1 / 2 := by rwa [Int.cast_neg, neg_sub_neg, abs_sub_comm]
    rw [← eq_floor_of_near hneg, neg_neg]

/-- A number with a strictly nearest integer lies on no rounding tie: halfway between two integers, both are as near. -/
theorem ne_tie_of_near {n : ℤ} {x : ℝ} (h : |(n : ℝ) - x| < 1 / 2) (k : ℤ) : x ≠ k + 1 / 2 := by
  rintro rfl
  obtain ⟨hlow, hhigh⟩ := abs_lt.1 h
  have hgt : k < n := by exact_mod_cast (by linarith : (k : ℝ) < n)
  have hlt : n < k + 1 := by exact_mod_cast (by linarith : (n : ℝ) < k + 1)
  omega

/-- Far from every tie, an integer that is nearest up to a small error is strictly nearest. -/
theorem near_of_far_from_tie {n : ℤ} {x : ℝ} (hfar : ∀ k : ℤ, 1 / 2 ^ 21 ≤ |x - (k + 1 / 2)|)
    (h : |(n : ℝ) - x| < 1 / 2 + 1 / 2 ^ 21) : |(n : ℝ) - x| < 1 / 2 := by
  obtain ⟨hlow, hhigh⟩ := abs_lt.1 h
  have habove := hfar n
  have hbelow := hfar (n - 1)
  push_cast at hbelow
  rw [le_abs] at habove hbelow
  rw [abs_lt]
  constructor
  · rcases habove with hup | hup <;> linarith
  · rcases hbelow with hup | hup <;> linarith

/-! ### The entries and the places of the turn -/

theorem tableEntry_of_lt {c : Config} {i : ℕ} (hi : i < c.tableSize) :
    tableEntry c i = turnSample c.peak (i * 2 ^ (16 - c.tableBits)) := by
  rw [tableEntry, Nat.mod_eq_of_lt hi]

theorem turnPlace_lt_of_lt {c : Config} {i : ℕ} (hi : i < c.tableSize) : i * 2 ^ (16 - c.tableBits) < 65536 := by
  simpa only [Nat.mod_eq_of_lt hi] using turnPlace_lt c i

/-- Dividing the table into `k` parts divides the turn into `k` parts. -/
theorem turnPlace_of_mul_eq {c : Config} {i k : ℕ} (h : i * k = c.tableSize) : i * 2 ^ (16 - c.tableBits) * k = 65536 := by
  rw [Nat.mul_right_comm, h, turnPlace_full]

theorem turnPlace_half (c : Config) : c.tableSize / 2 * 2 ^ (16 - c.tableBits) = 32768 := by
  have h := turnPlace_of_mul_eq c.half_tableSize_mul
  omega

theorem turnPlace_quarter {c : Config} (h : 2 ≤ c.tableBits) : c.tableSize / 4 * 2 ^ (16 - c.tableBits) = 16384 := by
  have h := turnPlace_of_mul_eq (Config.quarter_tableSize_mul h)
  omega

theorem turnAngle_place (c : Config) (i : ℕ) : turnAngle (i * 2 ^ (16 - c.tableBits)) = 2 * Real.pi * i / c.tableSize := by
  have hfull : (c.tableSize : ℝ) * 2 ^ (16 - c.tableBits) = 65536 := by exact_mod_cast turnPlace_full c
  have hN : (c.tableSize : ℝ) ≠ 0 := Nat.cast_ne_zero.2 c.tableSize_pos.ne'
  rw [turnAngle, Nat.cast_mul, Nat.cast_pow, Nat.cast_ofNat, div_eq_div_iff (by norm_num) hN]
  linear_combination Real.pi * i * hfull

/-- R53: an entry is strictly nearest to its real value, in every configuration. -/
theorem tableEntry_near {c : Config} {i : ℕ} (hi : i < c.tableSize) :
    |(tableEntry c i : ℝ) - c.peak * Real.sin (2 * Real.pi * i / c.tableSize)| < 1 / 2 := by
  rw [tableEntry_of_lt hi, ← turnAngle_place]
  exact turnSample_nearest c.one_le_peakBits c.peakBits_le (turnPlace_lt_of_lt hi)

/-! ### The table's symmetries -/

theorem tableEntry_zero (c : Config) : tableEntry c 0 = 0 := by
  rw [tableEntry, Nat.zero_mod, Nat.zero_mul]
  exact turnSample_zero c.one_le_peakBits c.peakBits_le

/-- The table is odd about its middle. -/
theorem tableEntry_mirror {c : Config} {i : ℕ} (h1 : 1 ≤ i) (hi : i < c.tableSize) :
    tableEntry c (c.tableSize - i) = -tableEntry c i := by
  rw [tableEntry_of_lt (Nat.sub_lt_self h1 hi.le), tableEntry_of_lt hi, Nat.sub_mul, turnPlace_full]
  exact turnSample_mirror (quarterSample_zero c.one_le_peakBits c.peakBits_le)
    (Nat.mul_pos h1 (Nat.two_pow_pos _)) (turnPlace_lt_of_lt hi)

/-- Half a turn on, the sample is the negative one. -/
theorem turnSample_half_turn (p : ℕ) {j : ℕ} (hj : j < 32768) : turnSample p (32768 + j) = -turnSample p j := by
  unfold turnSample
  rw [if_neg (show ¬32768 + j < 16384 by omega), if_neg (show ¬32768 + j < 32768 by omega)]
  by_cases h : j < 16384
  · rw [if_pos (by omega), if_pos h, Nat.add_sub_cancel_left]
  · rw [if_neg (by omega), if_neg h, if_pos hj, show 65536 - (32768 + j) = 32768 - j by omega]

theorem turnPlace_lt_half {c : Config} {i : ℕ} (hi : i < c.tableSize / 2) : i * 2 ^ (16 - c.tableBits) < 32768 :=
  (turnPlace_half c) ▸ Nat.mul_lt_mul_of_pos_right hi (Nat.two_pow_pos _)

theorem tableEntry_half_turn {c : Config} {i : ℕ} (hi : i < c.tableSize / 2) :
    tableEntry c (c.tableSize / 2 + i) = -tableEntry c i := by
  rw [tableEntry_of_lt (by omega), tableEntry_of_lt (by omega), Nat.add_mul, turnPlace_half]
  exact turnSample_half_turn _ (turnPlace_lt_half hi)

theorem tableEntry_half (c : Config) : tableEntry c (c.tableSize / 2) = 0 := by
  have hN := c.tableSize_pos
  have hhalf := c.half_tableSize_mul
  have h := tableEntry_half_turn (show 0 < c.tableSize / 2 by omega)
  rwa [Nat.add_zero, tableEntry_zero, neg_zero] at h

theorem tableEntry_quarter {c : Config} (h : 2 ≤ c.tableBits) : tableEntry c (c.tableSize / 4) = c.peak := by
  have hN := c.tableSize_pos
  rw [tableEntry_of_lt (by omega), turnPlace_quarter h]
  exact turnSample_quarter c.one_le_peakBits c.peakBits_le

theorem tableEntry_three_quarters {c : Config} (h : 2 ≤ c.tableBits) :
    tableEntry c (3 * c.tableSize / 4) = -(c.peak : Int) := by
  have hN := c.tableSize_pos
  have h4 := Config.quarter_tableSize_mul h
  rw [show 3 * c.tableSize / 4 = c.tableSize / 2 + c.tableSize / 4 by omega, tableEntry_half_turn (by omega),
    tableEntry_quarter h]

/-! ### The listed tables -/

/-- `peak * sin(2*pi*m/65536)` rounded, from the fixed-point sine. -/
def fixedSample (peak m : Nat) : Int := floorDiv (2 * peak * (fastSine m : Int) + (2 ^ 72 : Nat)) (2 * (2 ^ 72 : Nat))

theorem fixedSample_near {m : ℕ} (hm : m ≤ 16384) {s : ℕ} (h1 : 1 ≤ s) (h2 : s ≤ 31) :
    |(fixedSample (2 ^ s - 1) m : ℝ) - ((2 ^ s - 1 : ℕ) : ℝ) * Real.sin (turnAngle m)| < 1 / 2 := by
  refine near_of_far_from_tie (far_from_tie hm h1 h2) ?_
  have hp : ((2 ^ s - 1 : ℕ) : ℝ) ≤ 2 ^ 31 := by exact_mod_cast (peaks_lt _ (mem_peaks h1 h2)).le
  generalize 2 ^ s - 1 = p at hp
  have hround := floorDiv_round_close (fxSine m) (Nat.two_pow_pos 72) p
  have hsine : |(p : ℝ) * (fxSine m / 2 ^ 72) - p * Real.sin (turnAngle m)| ≤ 1 / 2 ^ 25 := by
    rw [← mul_sub, abs_mul, abs_of_nonneg (Nat.cast_nonneg _)]
    calc _ ≤ (2 : ℝ) ^ 31 * (1 / 2 ^ 56) := by gcongr; exact fxSine_close hm
      _ = 1 / 2 ^ 25 := by norm_num
  rw [fixedSample, fastSine_eq]
  simp only [Int.cast_natCast, Nat.cast_pow, Nat.cast_ofNat] at hround ⊢
  calc _ ≤ _ := abs_sub_le _ ((p : ℝ) * (fxSine m / 2 ^ 72)) _
    _ ≤ 1 / 2 + 1 / 2 ^ 25 := add_le_add hround hsine
    _ < 1 / 2 + 1 / 2 ^ 21 := by norm_num

theorem quarterSample_eq_fixedSample {m : ℕ} (hm : m ≤ 16384) {s : ℕ} (h1 : 1 ≤ s) (h2 : s ≤ 31) :
    quarterSample (2 ^ s - 1) m = fixedSample (2 ^ s - 1) m :=
  eq_of_near (quarterSample_nearest hm h1 h2) (fixedSample_near hm h1 h2)

/-- The first half turn is the first quarter and its mirror image. -/
theorem turnSample_first_half (p : ℕ) {j : ℕ} (hj : j < 32768) : turnSample p j = quarterSample p (min j (32768 - j)) := by
  unfold turnSample
  split_ifs with h
  · rw [min_eq_left (by omega)]
  · rw [min_eq_right (by omega)]

theorem tableEntry_eq_fixedSample {c : Config} {i : ℕ} (hi : i < c.tableSize / 2) :
    tableEntry c i =
      fixedSample c.peak (min (i * 2 ^ (16 - c.tableBits)) (32768 - i * 2 ^ (16 - c.tableBits))) := by
  rw [tableEntry_of_lt (by omega), turnSample_first_half _ (turnPlace_lt_half hi)]
  exact quarterSample_eq_fixedSample (by omega) c.one_le_peakBits c.peakBits_le

/-- The first half of the table with `2^tb` entries, from the fixed-point sine. -/
def fixedHalfTable (tb peak : Nat) : List Int :=
  (List.range (2 ^ tb / 2)).map fun i => fixedSample peak (min (i * 2 ^ (16 - tb)) (32768 - i * 2 ^ (16 - tb)))

/-- The table with `2^tb` entries: its first half, that half negated, and the guard sample (R54, R55). -/
def fixedTable (tb peak : Nat) : List Int :=
  fixedHalfTable tb peak ++ (fixedHalfTable tb peak).map Neg.neg ++ [0]

theorem map_tableEntry_first_half (c : Config) :
    (List.range (c.tableSize / 2)).map (tableEntry c) = fixedHalfTable c.tableBits c.peak :=
  List.map_congr_left fun _ hi => tableEntry_eq_fixedSample (List.mem_range.1 hi)

theorem map_tableEntry_second_half (c : Config) :
    (List.range (c.tableSize / 2)).map (fun i => tableEntry c (c.tableSize / 2 + i)) =
      (fixedHalfTable c.tableBits c.peak).map Neg.neg := by
  rw [← map_tableEntry_first_half, List.map_map]
  exact List.map_congr_left fun _ hi => tableEntry_half_turn (List.mem_range.1 hi)

theorem map_tableEntry (c : Config) :
    (List.range (c.tableSize + 1)).map (tableEntry c) = fixedTable c.tableBits c.peak := by
  have hrange : List.range c.tableSize =
      List.range (c.tableSize / 2) ++ (List.range (c.tableSize / 2)).map (c.tableSize / 2 + ·) := by
    rw [← List.range_add, ← mul_two, c.half_tableSize_mul]
  rw [List.range_succ, hrange, List.map_append, List.map_append, List.map_map, map_tableEntry_first_half, fixedTable,
    ← map_tableEntry_second_half, List.map_singleton, tableEntry_guard, tableEntry_zero]
  rfl

theorem fixedTable_eq_fullListing {tb peak : ℕ} {half : List Nat}
    (h : fixedHalfTable tb peak = half.map fun v : Nat => (v : Int)) : fixedTable tb peak = fullListing half := by
  rw [fixedTable, h, List.map_map]
  rfl

theorem fixedTable_eq_listing256 : fixedTable 8 32767 = listing256 :=
  fixedTable_eq_fullListing (by decide +kernel)

theorem fixedTable_eq_listing4096 : fixedTable 12 32767 = listing4096 :=
  fixedTable_eq_fullListing (by decide +kernel)

end Machine

open Machine

/-- Settles O37: an entry is strictly nearest to the real value, so it is that value rounded; the model bounds it by PEAK. -/
theorem romHoldsTheRoundedSine : Obligations.RomHoldsTheRoundedSine := by
  intro c i hi
  rw [romRead_toInt]
  exact ⟨eq_roundAway_of_near (tableEntry_near hi), tableEntry_bounds c i⟩

/-- Settles O38: a strictly nearest integer leaves no tie, so every rounding to the nearest gives it. -/
theorem bothRoundingsGiveTheSameTable : Obligations.BothRoundingsGiveTheSameTable := by
  intro c i hi
  have hnear := tableEntry_near hi
  rw [romRead_toInt]
  exact ⟨eq_floor_of_near hnear, eq_roundAway_of_near hnear, hnear, ne_tie_of_near hnear⟩

/-- Settles O39, from the symmetries of the turn and its values at the quarter points. -/
theorem romGuardAndSymmetry : Obligations.RomGuardAndSymmetry := fun c =>
  ⟨tableEntry_guard c, tableEntry_zero c, fun _ => tableEntry_mirror,
    fun h => ⟨tableEntry_quarter h, tableEntry_half c, tableEntry_three_quarters h⟩⟩

/-- Settles O40: the table of the fixed-point sine is the listing. -/
theorem romListing256 : Obligations.RomListing256 := by
  intro c htb hs
  have h := map_tableEntry c
  rw [Config.tableSize, Config.peak, htb, hs] at h
  exact h.trans fixedTable_eq_listing256

/-- Settles O41: the table of the fixed-point sine is the listing. -/
theorem romListing4096 : Obligations.RomListing4096 := by
  intro c htb hs
  have h := map_tableEntry c
  rw [Config.tableSize, Config.peak, htb, hs] at h
  exact h.trans fixedTable_eq_listing4096

end Sys2Proof
end

section
/-!
PROOFS, encoding (spec/30_encoding.md). Every pair of an opcode and an operand is the pair of fields of a well-formed command
(`exists_wellFormed_of_fields`), and decoding those fields gives that command back (`decodeFields_fields`): so decoder and
encoder are inverse to each other, and a fact about all words is a fact about all well-formed commands. The rows of the
opcode table compare an opcode's leading bits, so which row matches is arithmetic on the opcode. What an edge does to the
ports is said by the cases of `step` (Laws/State.lean).
-/

namespace Sys2Proof

/-! ### Decoding is the inverse of encoding -/

@[simp] theorem opcodeField_encode (i : Instr) : opcodeField (encode i) = i.opcode := opcodeField_commandWord _ _

@[simp] theorem operandField_encode (i : Instr) : operandField (encode i) = i.operand := operandField_commandWord _ _

/-- The lemmas of Laws/PerInstr.lean, for all commands at once (R78, R81). -/
theorem decodeFields_fields {i : Instr} (h : i.wellFormed = true) : decodeFields i.opcode i.operand = i := by
  cases i with
  | reserved10to1F opc op => exact Laws.Fields.reserved10to1F opc op h
  | reserved20to3F opc op => exact Laws.Fields.reserved20to3F opc op h
  | reserved40to7F opc op => exact Laws.Fields.reserved40to7F opc op h
  | reserved80toFF opc op => exact Laws.Fields.reserved80toFF opc op h
  | _ => rfl

theorem decode_encode {i : Instr} (h : i.wellFormed = true) : decode (encode i) = i :=
  decode_encode_of_fields (decodeFields_fields h)

/-! ### Every word is the word of a well-formed command -/

theorem opcodeIn_of_le {lo hi : Nat} {opc : Byte} (h1 : lo ≤ opc.toNat) (h2 : opc.toNat ≤ hi) :
    opcodeIn lo hi opc = true := by
  simp [opcodeIn, h1, h2]

theorem Machine.Mnemonic.command_wellFormed (m : Machine.Mnemonic) (op : Word) : (m.command op).wellFormed = true := by
  cases m <;> rfl

@[simp] theorem Machine.Mnemonic.command_operand (m : Machine.Mnemonic) (op : Word) : (m.command op).operand = op := by
  cases m <;> rfl

/-- The table of R78: each opcode below 0x10 has a mnemonic. -/
theorem exists_mnemonic_of_opcode {n : Nat} (h : n < 0x10) (op : Word) :
    ∃ m : Machine.Mnemonic, (m.command op).opcode = BitVec.ofNat 8 n := by
  interval_cases n
  exacts [⟨.nop, rfl⟩, ⟨.construct, rfl⟩, ⟨.setFreq, rfl⟩, ⟨.setGain, rfl⟩, ⟨.process, rfl⟩, ⟨.getLast, rfl⟩,
    ⟨.getPhase, rfl⟩, ⟨.resetPhase, rfl⟩, ⟨.getFreq, rfl⟩, ⟨.getEven, rfl⟩, ⟨.getAlt, rfl⟩, ⟨.tick, rfl⟩, ⟨.lookup, rfl⟩,
    ⟨.getStatus, rfl⟩, ⟨.getGain, rfl⟩, ⟨.getInc, rfl⟩]

/-- The four ranges of R81 leave no opcode of 0x10 or more out. -/
theorem exists_reserved_of_opcode {opc : Byte} (h : 0x10 ≤ opc.toNat) (op : Word) :
    ∃ i : Instr, i.wellFormed = true ∧ i.opcode = opc ∧ i.operand = op := by
  have hlt : opc.toNat < 0x100 := opc.isLt
  by_cases h1 : opc.toNat < 0x20
  · exact ⟨.reserved10to1F opc op, opcodeIn_of_le h (by omega), rfl, rfl⟩
  by_cases h2 : opc.toNat < 0x40
  · exact ⟨.reserved20to3F opc op, opcodeIn_of_le (by omega) (by omega), rfl, rfl⟩
  by_cases h3 : opc.toNat < 0x80
  · exact ⟨.reserved40to7F opc op, opcodeIn_of_le (by omega) (by omega), rfl, rfl⟩
  · exact ⟨.reserved80toFF opc op, opcodeIn_of_le (by omega) (by omega), rfl, rfl⟩

theorem exists_wellFormed_of_fields (opc : Byte) (op : Word) :
    ∃ i : Instr, i.wellFormed = true ∧ i.opcode = opc ∧ i.operand = op := by
  rcases Nat.lt_or_ge opc.toNat 0x10 with h | h
  · obtain ⟨m, hm⟩ := exists_mnemonic_of_opcode h op
    exact ⟨m.command op, m.command_wellFormed op, hm.trans (by simp), m.command_operand op⟩
  · exact exists_reserved_of_opcode h op

theorem exists_encode_eq (w : CmdWord) : ∃ i : Instr, i.wellFormed = true ∧ encode i = w := by
  obtain ⟨i, hwf, hopc, hop⟩ := exists_wellFormed_of_fields (opcodeField w) (operandField w)
  exact ⟨i, hwf, by rw [encode, hopc, hop, commandWord_fields]⟩

theorem decode_opcode (w : CmdWord) : (decode w).opcode = opcodeField w := by
  obtain ⟨i, hwf, rfl⟩ := exists_encode_eq w
  rw [decode_encode hwf, opcodeField_encode]

theorem decode_wellFormed (w : CmdWord) : (decode w).wellFormed = true := by
  obtain ⟨i, hwf, rfl⟩ := exists_encode_eq w
  rwa [decode_encode hwf]

theorem encode_decode (w : CmdWord) : encode (decode w) = w := by
  obtain ⟨i, hwf, rfl⟩ := exists_encode_eq w
  rw [decode_encode hwf]

/-! ### The rows of the opcode table -/

/-- The row of the words whose opcode is `p` once its last `j` bits are dropped. -/
def TableRow.leading (j : Nat) (p : Byte) : TableRow := ⟨commandWord (p <<< j) 0, commandWord (BitVec.allOnes 8 <<< j) 0⟩

/-- A command's row compares the whole opcode, a reserved row the bits from its leading 1 on. -/
theorem opcodeTable_eq :
    opcodeTable = (List.range 16).map (fun k => .leading 0 (BitVec.ofNat 8 k)) ++
      (List.range 4).map fun j => .leading (4 + j) 1 := by
  decide

theorem opcodeTable_cases {k : Nat} {r : TableRow} (h : opcodeTable[k]? = some r) :
    (k < 16 ∧ r = .leading 0 (BitVec.ofNat 8 k)) ∨ ∃ j, 4 ≤ j ∧ j ≤ 7 ∧ k = 12 + j ∧ r = .leading j 1 := by
  have hk : k < 20 := (List.getElem?_eq_some_iff.1 h).1
  rw [opcodeTable_eq] at h
  rcases Nat.lt_or_ge k 16 with hlt | hge
  · rw [List.getElem?_append_left (by simpa using hlt)] at h
    exact .inl ⟨hlt, by simpa [hlt, eq_comm] using h⟩
  · obtain ⟨j, rfl⟩ := Nat.exists_eq_add_of_le hge
    rw [List.getElem?_append_right (by simp)] at h
    exact .inr ⟨4 + j, by omega, by omega, by omega, by simpa [show j < 4 by omega, eq_comm] using h⟩

theorem commandWord_and (opc opc' : Byte) (op op' : Word) :
    commandWord opc op &&& commandWord opc' op' = commandWord (opc &&& opc') (op &&& op') :=
  BitVec.and_append

theorem commandWord_inj {opc opc' : Byte} {op op' : Word} :
    commandWord opc op = commandWord opc' op' ↔ opc = opc' ∧ op = op' := by
  refine ⟨fun h => ⟨?_, ?_⟩, fun ⟨hopc, hop⟩ => by rw [hopc, hop]⟩
  · simpa only [opcodeField_commandWord] using congrArg opcodeField h
  · simpa only [operandField_commandWord] using congrArg operandField h

theorem and_leading_eq_iff {opc p : Byte} {j : Nat} (hp : p.toNat * 2 ^ j < 256) :
    opc &&& BitVec.allOnes 8 <<< j = p <<< j ↔ opc.toNat / 2 ^ j = p.toNat := by
  have hopc : opc.toNat / 2 ^ j * 2 ^ j < 256 := (Nat.div_mul_le_self _ _).trans_lt opc.isLt
  rw [← BitVec.shiftLeft_ushiftRight, ← BitVec.toNat_inj,
    BitVec.toNat_shiftLeft, BitVec.toNat_shiftLeft, BitVec.toNat_ushiftRight, Nat.shiftLeft_eq, Nat.shiftLeft_eq,
    Nat.shiftRight_eq_div_pow, Nat.mod_eq_of_lt hopc, Nat.mod_eq_of_lt hp]
  exact Nat.mul_left_inj (Nat.two_pow_pos j).ne'

/-- A word matches a row when its opcode's leading bits are the row's. -/
theorem matches_leading_iff {w : CmdWord} {j : Nat} {p : Byte} (hp : p.toNat * 2 ^ j < 256) :
    w &&& (TableRow.leading j p).mask = (TableRow.leading j p).pattern ↔ (opcodeField w).toNat / 2 ^ j = p.toNat := by
  rw [← and_leading_eq_iff hp]
  conv_lhs => rw [← commandWord_fields w]
  rw [TableRow.leading, commandWord_and, commandWord_inj]
  exact and_iff_left BitVec.and_zero

/-! ### The row of a command -/

/-- The place in the opcode table of the row an opcode matches: below 0x10 the opcode's own, above it that of its leading 1. -/
def rowOfOpcode (n : Nat) : Nat := if n < 16 then n else 12 + n.log2

theorem rowOfOpcode_of_opcodeIn {opc : Byte} {j : Nat} (hj : 4 ≤ j) (h : opcodeIn (2 ^ j) (2 ^ (j + 1) - 1) opc = true) :
    rowOfOpcode opc.toNat = 12 + j := by
  obtain ⟨hlo, hhi⟩ := Laws.Fields.of_opcodeIn h
  have hpow : 2 ^ 4 ≤ 2 ^ j := Nat.pow_le_pow_right (by norm_num) hj
  rw [rowOfOpcode, if_neg (by omega), (Nat.log2_eq_iff (by omega)).2 ⟨hlo, by omega⟩]

theorem rowIndex_eq_rowOfOpcode {i : Instr} (h : i.wellFormed = true) : i.rowIndex = rowOfOpcode i.opcode.toNat := by
  cases i with
  | reserved10to1F opc op => exact (rowOfOpcode_of_opcodeIn (j := 4) (by norm_num) h).symm
  | reserved20to3F opc op => exact (rowOfOpcode_of_opcodeIn (j := 5) (by norm_num) h).symm
  | reserved40to7F opc op => exact (rowOfOpcode_of_opcodeIn (j := 6) (by norm_num) h).symm
  | reserved80toFF opc op => exact (rowOfOpcode_of_opcodeIn (j := 7) (by norm_num) h).symm
  | _ => rfl

theorem rowOfOpcode_eq_iff_of_lt {n k : Nat} (hk : k < 16) : rowOfOpcode n = k ↔ n = k := by
  unfold rowOfOpcode
  split_ifs with hn
  · rfl
  · have hlog : 4 ≤ n.log2 := (Nat.le_log2 (by omega)).2 (by omega)
    omega

theorem rowOfOpcode_eq_iff_of_ge {n j : Nat} (hj : 4 ≤ j) : rowOfOpcode n = 12 + j ↔ n / 2 ^ j = 1 := by
  have hpow : 2 ^ 4 ≤ 2 ^ j := Nat.pow_le_pow_right (by norm_num) hj
  rw [Nat.div_eq_iff (Nat.two_pow_pos j)]
  unfold rowOfOpcode
  split_ifs with hn
  · omega
  · rw [Nat.add_left_cancel_iff, Nat.log2_eq_iff (by omega), pow_succ]
    omega

theorem rowOfOpcode_lt {n : Nat} (hn : n < 256) : rowOfOpcode n < 20 := by
  unfold rowOfOpcode
  split_ifs with h
  · omega
  · have hlog : n.log2 < 8 := (Nat.log2_lt (by omega)).2 hn
    omega

/-- R81: of all rows, a word matches the one of its opcode. -/
theorem matches_row_iff {w : CmdWord} {k : Nat} {r : TableRow} (h : opcodeTable[k]? = some r) :
    w &&& r.mask = r.pattern ↔ k = rowOfOpcode (opcodeField w).toNat := by
  rw [eq_comm (a := k)]
  obtain ⟨hk, rfl⟩ | ⟨j, hlo, hhi, rfl, rfl⟩ := opcodeTable_cases h
  · have hp : (BitVec.ofNat 8 k).toNat = k := BitVec.toNat_ofNat _ _ |>.trans (Nat.mod_eq_of_lt (by omega))
    rw [matches_leading_iff (by omega), rowOfOpcode_eq_iff_of_lt hk, hp, pow_zero, Nat.div_one]
  · have hp : 2 ^ j < 256 := Nat.pow_lt_pow_right (n := 8) (by norm_num) (by omega)
    rw [matches_leading_iff (by simpa using hp), rowOfOpcode_eq_iff_of_ge hlo]
    rfl

theorem decode_rowIndex (w : CmdWord) : (decode w).rowIndex = rowOfOpcode (opcodeField w).toNat := by
  obtain ⟨i, hwf, rfl⟩ := exists_encode_eq w
  rw [decode_encode hwf, opcodeField_encode, rowIndex_eq_rowOfOpcode hwf]

namespace Machine

/-! ### Ignored operand bits -/

theorem exec_of_isReserved {i : Instr} (h : i.isReserved = true) (s : State) :
    exec i s = .next (s.raiseIllegalCommand.respond responseZero) := by
  cases i with
  | reserved10to1F | reserved20to3F | reserved40to7F | reserved80toFF => rfl
  | _ => cases h

/-- R80: a command of form `none` does the same with every operand. -/
theorem exec_decodeFields_operand {i : Instr} (hwf : i.wellFormed = true) (hform : i.operandForm = .none) (op : Word)
    (s : State) : exec (decodeFields i.opcode op) s = exec i s := by
  cases i with
  | construct | setFreq | setGain | resetPhase | lookup => cases hform
  | reserved10to1F opc | reserved20to3F opc | reserved40to7F opc | reserved80toFF opc =>
    have hopc : 0x10 ≤ opc.toNat := le_trans (by norm_num) (Laws.Fields.of_opcodeIn hwf).1
    rw [Instr.opcode, exec_of_isReserved ((decodeFields_isReserved opc op).2 hopc), exec_of_isReserved rfl]
  | _ => rfl

theorem exec_decode_congr {w w' : CmdWord} (h : opcodeField w = opcodeField w') (hform : (decode w).operandForm = .none)
    (s : State) : exec (decode w) s = exec (decode w') s := by
  rw [← exec_decodeFields_operand (decode_wellFormed w) hform (operandField w') s, decode_opcode, h, decode]

theorem operandPH_congr {c : Config} {op op' : Word} (h : op.toNat % 2 ^ c.phaseBits = op'.toNat % 2 ^ c.phaseBits) :
    operandPH c op = operandPH c op' := by
  apply BitVec.eq_of_toNat_eq
  simpa only [operandPH, BitVec.toNat_setWidth] using h

theorem exec_lookup_congr {op op' : Word} {s : State}
    (h : op.toNat % 2 ^ s.cfg.phaseBits = op'.toNat % 2 ^ s.cfg.phaseBits) : exec (.lookup op) s = exec (.lookup op') s := by
  rw [exec, exec, execLookup, execLookup, operandPH_congr h]

/-! ### The assembler -/

theorem literalWord_of_mem {v : Int} (hlo : -(2 ^ 31) ≤ v) (hhi : v ≤ 2 ^ 32 - 1) :
    literalWord v = some (BitVec.ofInt 32 v) :=
  if_pos ⟨hlo, hhi⟩

theorem literalWord_of_not_mem {v : Int} (h : v < -(2 ^ 31) ∨ 2 ^ 32 - 1 < v) : literalWord v = none :=
  if_neg (by omega)

theorem toNat_ofInt_eq_emod (v : Int) : ((BitVec.ofInt 32 v).toNat : Int) = v % 2 ^ 32 := by
  rw [BitVec.toNat_ofInt, Int.toNat_of_nonneg (Int.emod_nonneg _ (by norm_num))]
  rfl

theorem assemble_none_of_takesOperand {m : Mnemonic} (h : m.takesOperand = true) : assemble m none = none :=
  if_pos h

theorem assemble_some_of_takesOperand {m : Mnemonic} (h : m.takesOperand = true) (v : Int) :
    assemble m (some v) = (literalWord v).map m.command :=
  if_pos h

theorem assemble_none_of_form_none {m : Mnemonic} (h : m.takesOperand = false) : assemble m none = some (m.command 0) :=
  if_neg (by simp [h])

theorem assemble_some_of_form_none {m : Mnemonic} (h : m.takesOperand = false) (v : Int) : assemble m (some v) = none :=
  if_neg (by simp [h])

theorem operandField_toNat (w : CmdWord) : (operandField w).toNat = w.toNat % 2 ^ 32 := by
  simp [operandField]

theorem encode_toNat_mod (i : Instr) : (encode i).toNat % 2 ^ 32 = i.operand.toNat := by
  rw [← operandField_toNat, operandField_encode]

/-! ### The response port -/

/-- The words owed after a clock cycle: the first one has left if it was offered (R72). -/
theorem clockResponses_words (s : State) :
    (clockResponses s.inFlight).map (·.word) =
      if s.offeredResponse.isSome then (s.inFlight.map (·.word)).tail else s.inFlight.map (·.word) := by
  unfold State.offeredResponse
  cases s.inFlight with
  | nil => rfl
  | cons r rs =>
    by_cases h : r.due ≤ 1 <;> simp [clockResponses, h]

theorem step_accepts_inFlight {s t : State} (hr : s.nextEdge.rst = false) (ha : s.nextEdge.accepts = true)
    (h : step s = .next t) : ∃ r, t.inFlight = clockResponses s.inFlight ++ [⟨s.cfg.rspLatency, r⟩] := by
  rw [step_of_accepts hr ha] at h
  exact exec_inFlight h

theorem accepts_eq_false {e : PortEdge} (h : e.cmdValid = false ∨ e.cmdReady = false) : e.accepts = false := by
  rcases h with h | h <;> simp [PortEdge.accepts, h]

theorem accepts_eq_true {e : PortEdge} (hr : e.rst = false) (hv : e.cmdValid = true) (hc : e.cmdReady = true) :
    e.accepts = true := by
  simp [PortEdge.accepts, hr, hv, hc]

theorem sampleOut_toInt (s : State) : s.sampleOut.toInt = s.view.last := rfl

/-- LAST over a clock edge: reset clears it, and of the commands only PROCESS and CONSTRUCT write it (R73). -/
theorem step_last_writer {s t : State} (h : step s = .next t) (hne : t.view.last ≠ s.view.last) :
    s.nextEdge.rst = true ∨ (s.nextEdge.accepts = true ∧
      ∃ op, decode s.nextEdge.cmdWord = .process op ∨ decode s.nextEdge.cmdWord = .construct op) := by
  obtain ⟨hr, -⟩ | ⟨-, ha, hexec⟩ | ⟨-, -, rfl⟩ := step_cases h
  · exact .inl hr
  · rw [exec_view hexec] at hne
    exact .inr ⟨ha, last_writer hne⟩
  · exact absurd rfl hne

/-! ### Pseudo-instructions -/

theorem expand_setFreqHz_of_mem {n : Int} (hlo : -32768 ≤ n) (hhi : n ≤ 32767) :
    (Pseudo.setFreqHz n).expand = some [.setFreq (BitVec.ofInt 32 (n * 65536))] :=
  if_pos ⟨hlo, hhi⟩

theorem expand_setFreqHz_of_not_mem {n : Int} (h : n < -32768 ∨ 32767 < n) : (Pseudo.setFreqHz n).expand = none :=
  if_neg (by omega)

theorem operandSQ_hertz {n : Int} (hlo : -32768 ≤ n) (hhi : n ≤ 32767) :
    operandSQ (BitVec.ofInt 32 (n * 65536)) = n * 65536 := by
  rw [operandSQ, BitVec.toInt_ofInt]
  exact Int.bmod_eq_of_le (by norm_num; omega) (by norm_num; omega)

theorem expand_processN {k : Nat} (h : 1 ≤ k) : (Pseudo.processN k).expand = some (List.replicate k (.process 0)) :=
  if_pos h

end Machine

open Machine

/-- Settles O8, constructor by constructor: a well-formed command's opcode selects its own row. -/
theorem decodeOfEncodeIsIdentity : Obligations.DecodeOfEncodeIsIdentity := fun _ => decode_encode

/-- Settles O9: every word is the word of a well-formed command, which decodes to that command. -/
theorem everyWordIsTheWordOfItsCommand : Obligations.EveryWordIsTheWordOfItsCommand :=
  fun w => ⟨decode_wellFormed w, encode_decode w⟩

/-- Settles O10: the rows compare leading bits, and each opcode agrees with exactly one row in those. -/
theorem eachWordMatchesExactlyOneRow : Obligations.EachWordMatchesExactlyOneRow := by
  refine ⟨by decide, rfl, fun w k r h => ?_, fun w => ⟨?_, decode_opcode w, fun w' hw => ?_⟩⟩
  · rw [decode_rowIndex, matches_row_iff h]
  · rw [decode_rowIndex]
    exact rowOfOpcode_lt (opcodeField w).isLt
  · rw [decode_rowIndex, decode_rowIndex, hw]

/-- Settles O13, from the four equations of the assembler. -/
theorem assemblerOperandsFollowTheForm : Obligations.AssemblerOperandsFollowTheForm := by
  refine fun m v => ⟨fun h => ⟨assemble_none_of_takesOperand h, fun hlo hhi => ?_, fun hout => ?_⟩,
    fun h => ⟨assemble_none_of_form_none h, assemble_some_of_form_none h v⟩⟩
  · refine ⟨BitVec.ofInt 32 v, ?_, m.command_operand _, toNat_ofInt_eq_emod v⟩
    rw [assemble_some_of_takesOperand h, literalWord_of_mem hlo hhi, Option.map_some]
  · rw [assemble_some_of_takesOperand h, literalWord_of_not_mem hout, Option.map_none]

/-- Settles O14: no meaning of a form none command reads the operand, and LOOKUP reads its low W bits. -/
theorem ignoredOperandBitsChangeNothing : Obligations.IgnoredOperandBitsChangeNothing := by
  refine ⟨fun w w' s h hform => exec_decode_congr h hform s, fun op op' s => exec_lookup_congr, fun m h =>
    ⟨assemble_none_of_form_none h, ?_⟩⟩
  rw [encode_toNat_mod, m.command_operand]
  rfl

/-- Settles O7: the clock cycle takes the offered word away, and an accepted command appends its own. -/
theorem responsesLeaveInAcceptanceOrder : Obligations.ResponsesLeaveInAcceptanceOrder := by
  intro s t hr h
  rw [← clockResponses_words]
  cases ha : s.nextEdge.accepts with
  | true =>
    obtain ⟨r, hflight⟩ := step_accepts_inFlight hr ha h
    exact ⟨[r], rfl, by rw [hflight, List.map_append, List.map_singleton]⟩
  | false =>
    rw [step_of_idle hr ha] at h
    cases h
    exact ⟨[], rfl, (List.append_nil _).symm⟩

/-- Settles O29: the port is LAST, and LAST has two writers beside reset. -/
theorem sampleOutChangesOnlyByItsWriters : Obligations.SampleOutChangesOnlyByItsWriters := by
  refine ⟨sampleOut_toInt, fun c es => ?_, fun s t => step_last_writer⟩
  rw [sampleOut_toInt, resetWith_view, View.reset]

/-- Settles O3: an edge without reset that accepts nothing is a clock cycle of the response port. -/
theorem unacceptedWordHasNoEffect : Obligations.UnacceptedWordHasNoEffect := fun _ hr h =>
  ⟨_, step_of_idle hr (accepts_eq_false h), rfl, rfl, rfl, rfl⟩

/-- Settles O4: the edge accepts the word, which decodes to its command. -/
theorem stepRunsTheDecodedCommand : Obligations.StepRunsTheDecodedCommand := by
  intro s i hwf hword hr hv hc
  refine ⟨?_, rfl, rfl, rfl, rfl⟩
  rw [step_of_accepts hr (accepts_eq_true hr hv hc), hword, decode_encode hwf]

/-- Settles O11, by evaluating assembler, encoder and decoder on the words of R88. -/
theorem referenceEncodings : Obligations.ReferenceEncodings := by
  unfold Obligations.ReferenceEncodings
  decide

/-- Settles O12, from the equations of the two expansions with a parameter; the others are constants. -/
theorem pseudoInstructionsExpand : Obligations.PseudoInstructionsExpand :=
  ⟨fun _ hlo hhi => ⟨_, expand_setFreqHz_of_mem hlo hhi, operandSQ_hertz hlo hhi⟩,
    fun _ => expand_setFreqHz_of_not_mem, rfl, rfl, rfl, rfl,
    fun _ hk => ⟨_, expand_processN hk, List.length_replicate, fun _ => List.eq_of_mem_replicate⟩, rfl⟩

end Sys2Proof
end

section
/-!
PROOFS, phase accumulator (spec/41_phase_accumulator.md). A command's whole effect is `View.after` with one response more
(`completes_of_response`), so each command's statement is left with its arithmetic. WRAP is the quotient of the unbounded sum
by 2^W (`tick_wrap_toNat`), so wraps add up over consecutive ticks (`View.Ticked.trans`). INC is a rounded quotient
(`half_up_bounds`), from which both the nearest ratio and the drift over one period follow.
-/

namespace Sys2Proof.Machine

/-! ### The whole effect of a command -/

theorem completes_of_response {i : Instr} {s t : State} {r : Word} (h : exec i s = .next t)
    (hr : t.inFlight = s.inFlight ++ [⟨s.cfg.rspLatency, r⟩]) : Completes i s (s.view.after s.cfg i) r :=
  ⟨t, h, exec_view h, hr, exec_cfg h, exec_edges h⟩

theorem responseFreq_eq (v : Word) : responseFreq v = BitVec.ofNat 32 v.toNat :=
  v.setWidth_eq.symm.trans (responseValue_eq v)

theorem responseBit_even (n : Byte) : responseBit (evenFlag n) = if n.toNat % 2 = 0 then 1 else 0 := by
  simp [responseBit, evenFlag]

theorem responseBit_eq (b : Bool) : responseBit b = BitVec.ofNat 32 b.toNat := by
  cases b <;> rfl

theorem altFlag_toNat (n : Byte) : (altFlag n).toNat = n.toNat % 4 / 2 := by
  rw [altFlag, BitVec.getLsbD, Nat.toNat_testBit]
  omega

theorem resetPosition_full_width {p : Nat} (hp : p < 2 ^ 32) : resetPosition 32 p = p := by
  unfold resetPosition
  omega

/-! ### The frequency and its increment -/

theorem clampFreq_of_neg {f : Int} (hf : f < 0) (fs : Nat) : clampFreq f fs = 0 := by
  rw [clampFreq_eq, if_pos (.inr hf)]

theorem clampFreq_of_mem {f : Int} {fs : Nat} (h0 : 0 ≤ f) (hf : f < fs * 2 ^ 15) : (clampFreq f fs : Int) = f := by
  rw [clampFreq_eq, if_neg (by omega), if_neg (by push_cast; omega), Int.toNat_of_nonneg h0]

/-- `(x + d) / (2 * d)` is `x / (2 * d)` rounded to the nearest integer, halves up. -/
theorem half_up_bounds (x : Nat) {d : Nat} (hd : 0 < d) :
    (2 * ((x + d) / (2 * d) : Nat) - 1 : Int) * d ≤ x ∧ (x : Int) < (2 * ((x + d) / (2 * d) : Nat) + 1) * d := by
  have hlo := Nat.div_mul_le_self (x + d) (2 * d)
  have hhi := Nat.lt_mul_div_succ (x + d) (show 0 < 2 * d by omega)
  generalize (x + d) / (2 * d) = q at hlo hhi
  zify at hlo hhi
  constructor <;> linarith

theorem incOf_eq {w fc fs : Nat} (hfs : fs ≠ 0) :
    incOf w fc fs = (fc * 2 ^ (w + 1) + fs * 2 ^ 16) / (2 * (fs * 2 ^ 16)) := by
  rw [incOf, if_neg hfs]
  congr 1
  ring

/-- For a frequency of `fs / n` the increment is `2^W / n`, rounded. -/
theorem incOf_of_period {w fc fs n : Nat} (hfs : fs ≠ 0) (h : fc * n = fs * 2 ^ 16) :
    incOf w fc fs = (2 ^ (w + 1) + n) / (2 * n) := by
  have hfc : 0 < fc := Nat.pos_of_ne_zero (by rintro rfl; omega)
  rw [incOf_eq hfs, ← h, ← Nat.mul_add, Nat.mul_left_comm, Nat.mul_div_mul_left _ _ hfc]

/-- The operand of `fs / n` hertz lies inside the range for `n` of at least 3. -/
theorem period_freq_bounds {f : Int} {fs n : Nat} (hn : 3 ≤ n) (hfs : 1 ≤ fs) (h : f * n = fs * 2 ^ 16) :
    0 < f ∧ f < fs * 2 ^ 15 := by
  have hprod : 0 < f * n := by omega
  have hpos : 0 < f := (pos_iff_pos_of_mul_pos hprod).2 (by omega)
  have hle : f * 3 ≤ f * n := Int.mul_le_mul_of_nonneg_left (by omega) hpos.le
  exact ⟨hpos, by omega⟩

theorem after_setFreq_inc_of_period {c : Config} {v : View} {op : Word} {n : Nat} (hn : 3 ≤ n) (hfs : 1 ≤ v.fs)
    (h : op.toInt * n = v.fs * 2 ^ 16) : (v.after c (.setFreq op)).inc = (2 ^ (c.phaseBits + 1) + n) / (2 * n) := by
  obtain ⟨hpos, hlt⟩ := period_freq_bounds hn hfs h
  rw [← clampFreq_of_mem hpos.le hlt] at h
  exact incOf_of_period (Nat.ne_zero_of_lt hfs) (by exact_mod_cast h)

/-- R113: `n` rounded increments miss 2^w by at most n/2. -/
theorem period_drift_le (w : Nat) {n : Nat} (hn : 0 < n) :
    2 * |(n * ((2 ^ (w + 1) + n) / (2 * n) : Nat) - 2 ^ w : Int)| ≤ n := by
  obtain ⟨hlo, hhi⟩ := half_up_bounds (2 ^ (w + 1)) hn
  generalize (2 ^ (w + 1) + n) / (2 * n) = q at hlo hhi
  push_cast [pow_succ] at hlo hhi
  rcases abs_cases (n * q - 2 ^ w : Int) with ⟨habs, -⟩ | ⟨habs, -⟩ <;> rw [habs] <;> linarith

/-! ### Ticks -/

theorem view_phase_lt (s : State) : s.view.phase < 2 ^ s.cfg.phaseBits := s.regs.phase.isLt
theorem view_inc_lt (s : State) : s.view.inc < 2 ^ s.cfg.phaseBits := s.regs.inc.isLt
theorem view_cycleCount_lt (s : State) : s.view.cycleCount < 256 := s.regs.cycleCount.isLt

/-- For a phase and an increment below 2^W, WRAP is the carry out of their sum. -/
theorem tick_wrap_toNat {c : Config} {v : View} (hp : v.phase < 2 ^ c.phaseBits) (hi : v.inc < 2 ^ c.phaseBits) :
    (v.tick c).wrap.toNat = (v.phase + v.inc) / 2 ^ c.phaseBits := by
  rw [View.tick]
  dsimp only
  generalize 2 ^ c.phaseBits = m at hp hi
  rcases Nat.lt_or_ge (v.phase + v.inc) m with h | h
  · rw [Nat.mod_eq_of_lt h, Nat.div_eq_of_lt h, decide_eq_false (by omega), Bool.toNat_false]
  · rw [Nat.mod_eq_sub_mod h, Nat.mod_eq_of_lt (by omega), Nat.div_eq_of_lt_le (k := 1) (by omega) (by omega),
      decide_eq_true (by omega), Bool.toNat_true]

/-- The registers `w` are those of `v` after `k` ticks (R103); WRAP tells of the last tick only, and LAST is PROCESS's. -/
structure View.Ticked (c : Config) (k : Nat) (v w : View) : Prop where
  phase : w.phase = (v.phase + k * v.inc) % 2 ^ c.phaseBits
  cycleCount : w.cycleCount = (v.cycleCount + (v.phase + k * v.inc) / 2 ^ c.phaseBits) % 256
  inc : w.inc = v.inc
  freq : w.freq = v.freq
  fs : w.fs = v.fs
  gain : w.gain = v.gain
  ill : w.ill = v.ill
  tblBuilt : w.tblBuilt = v.tblBuilt

theorem ticked_zero (s : State) : s.view.Ticked s.cfg 0 s.view where
  phase := by rw [Nat.zero_mul, Nat.add_zero, Nat.mod_eq_of_lt (view_phase_lt s)]
  cycleCount := by
    rw [Nat.zero_mul, Nat.add_zero, Nat.div_eq_of_lt (view_phase_lt s), Nat.add_zero,
      Nat.mod_eq_of_lt (view_cycleCount_lt s)]
  inc := rfl
  freq := rfl
  fs := rfl
  gain := rfl
  ill := rfl
  tblBuilt := rfl

theorem div_add_mod_add_div (a b : Nat) {m : Nat} (hm : 0 < m) : a / m + (a % m + b) / m = (a + b) / m := by
  rw [← Nat.mul_add_div hm, ← Nat.add_assoc, Nat.div_add_mod]

/-- Over consecutive ticks the numbers of wraps add up. -/
theorem View.Ticked.trans {c : Config} {j k : Nat} {u v w : View} (huv : u.Ticked c j v) (hvw : v.Ticked c k w) :
    u.Ticked c (j + k) w where
  phase := by rw [hvw.phase, huv.phase, huv.inc, Nat.mod_add_mod, Nat.add_mul, Nat.add_assoc]
  cycleCount := by
    rw [hvw.cycleCount, huv.cycleCount, huv.phase, huv.inc, Nat.mod_add_mod, Nat.add_assoc,
      div_add_mod_add_div _ _ (Nat.two_pow_pos _), Nat.add_mul, Nat.add_assoc u.phase]
  inc := hvw.inc.trans huv.inc
  freq := hvw.freq.trans huv.freq
  fs := hvw.fs.trans huv.fs
  gain := hvw.gain.trans huv.gain
  ill := hvw.ill.trans huv.ill
  tblBuilt := hvw.tblBuilt.trans huv.tblBuilt

section OneTick

variable {s t : State} {op : Word} (h : exec (.tick op) s = .next t ∨ exec (.process op) s = .next t)
include h

/-- TICK and PROCESS both tick; PROCESS also writes LAST. -/
theorem tick_view : t.view = { s.view.tick s.cfg with last := t.view.last } := by
  rcases h with h | h <;> rw [exec_view h] <;> rfl

theorem tick_cfg : t.cfg = s.cfg := h.elim exec_cfg exec_cfg

theorem tick_edges : t.edges = s.edges := h.elim exec_edges exec_edges

theorem tick_wrap_iff : t.view.wrap = true ↔ 2 ^ s.cfg.phaseBits ≤ s.view.phase + s.view.inc := by
  have hw : t.view.wrap.toNat = (s.view.phase + s.view.inc) / 2 ^ s.cfg.phaseBits := by
    rw [tick_view h]
    exact tick_wrap_toNat (view_phase_lt s) (view_inc_lt s)
  rw [← Nat.one_le_div_iff (Nat.two_pow_pos _), ← hw]
  cases t.view.wrap <;> decide

theorem tick_phase_lt_inc (hw : t.view.wrap = true) : t.view.phase < t.view.inc := by
  rw [tick_view h] at hw ⊢
  exact of_decide_eq_true hw

theorem tick_ticked : s.view.Ticked s.cfg 1 t.view := by
  have hcount := tick_wrap_toNat (view_phase_lt s) (view_inc_lt s)
  rw [tick_view h]
  refine ⟨?_, ?_, rfl, rfl, rfl, rfl, rfl, rfl⟩
  · rw [Nat.one_mul]
    rfl
  · rw [Nat.one_mul, ← hcount]
    rfl

end OneTick

/-! ### Runs of ticks -/

/-- What stands on the port is a word of TICK or PROCESS, and the block accepts it. -/
def AcceptsTick (e : Option PortEdge) : Prop :=
  ∃ op, e = some (.command (encode (.tick op))) ∨ e = some (.command (encode (.process op)))

/-- An edge that accepts the word of a well-formed command runs the command after a clock cycle of the response port. -/
theorem step_of_encode {s : State} {i : Instr} (hwf : i.wellFormed = true)
    (h : s.edges.head? = some (.command (encode i))) :
    ∃ t, step s = .next t ∧ exec i s.pastEdge.clock = .next t ∧ t.cfg = s.cfg ∧ t.edges = s.edges.tail := by
  obtain ⟨t, -, hexec, -⟩ := exec_tblBuilt i s.pastEdge.clock false
  have hstep : step s = .next t := by rw [step_of_command h, decode_encode hwf, hexec]
  refine ⟨t, hstep, hexec, ?_, ?_⟩
  · rw [exec_cfg hexec, clock_cfg, pastEdge_cfg]
  · rw [exec_edges hexec, clock_edges, pastEdge_edges]

theorem step_of_acceptsTick {s : State} (h : AcceptsTick s.edges.head?) :
    ∃ t, step s = .next t ∧ t.cfg = s.cfg ∧ t.edges = s.edges.tail ∧ s.view.Ticked s.cfg 1 t.view := by
  obtain ⟨op, htick | hprocess⟩ := h
  · obtain ⟨t, hstep, hexec, hcfg, hedges⟩ := step_of_encode rfl htick
    have hticked := tick_ticked (.inl hexec)
    exact ⟨t, hstep, hcfg, hedges, hticked⟩
  · obtain ⟨t, hstep, hexec, hcfg, hedges⟩ := step_of_encode rfl hprocess
    have hticked := tick_ticked (.inr hexec)
    exact ⟨t, hstep, hcfg, hedges, hticked⟩

/-- R103, over `k` clock edges. -/
theorem run_ticks {k : Nat} {s : State} (h : ∀ j < k, AcceptsTick s.edges[j]?) :
    ∃ t, core.run k s = .next t ∧ t.cfg = s.cfg ∧ t.edges = s.edges.drop k ∧ s.view.Ticked s.cfg k t.view := by
  induction k generalizing s with
  | zero => exact ⟨s, rfl, rfl, rfl, ticked_zero s⟩
  | succ k ih =>
    obtain ⟨u, hstep, hcfg, hedges, hfirst⟩ :=
      step_of_acceptsTick (List.head?_eq_getElem? ▸ h 0 k.succ_pos)
    have hrest : ∀ j < k, AcceptsTick u.edges[j]? := fun j hj => by
      rw [hedges, List.getElem?_tail]
      exact h (j + 1) (Nat.succ_lt_succ hj)
    obtain ⟨t, hrun, hcfg', hedges', hticks⟩ := ih hrest
    refine ⟨t, (run_succ hstep).trans hrun, hcfg'.trans hcfg, ?_, ?_⟩
    · rw [hedges', hedges, List.drop_tail]
    · rw [hcfg] at hticks
      exact Nat.add_comm 1 k ▸ hfirst.trans hticks

end Sys2Proof.Machine

namespace Sys2Proof

open Machine

/-- Settles O17: the rules' case distinction is the model's clamp. -/
theorem setFreqStoresFrequencyAndIncrement : Obligations.SetFreqStoresFrequencyAndIncrement := by
  intro s op
  dsimp only
  rw [← clampFreq_eq]
  exact ⟨rfl, completes_of_response rfl rfl⟩

/-- Settles O19: `View.tick` is `tick_step()` in the rules' integers. -/
theorem tickAdvancesPhase : Obligations.TickAdvancesPhase := fun _ _ => ⟨rfl, completes_of_response rfl rfl⟩

/-- Settles O20; at full width the rounding is exact. -/
theorem resetPhaseSetsPosition : Obligations.ResetPhaseSetsPosition := by
  intro s op
  dsimp only
  rw [← resetPosition_eq]
  exact ⟨rfl, fun hw => by rw [hw, resetPosition_full_width op.isLt], completes_of_response rfl rfl⟩

/-- Settles O32: one tick carries out of the sum at most once, and over a run the carries add up. -/
theorem ticksCountWrapsExactly : Obligations.TicksCountWrapsExactly := by
  refine ⟨fun s t op h => ⟨tick_wrap_iff h, fun hinc => ?_⟩, fun s k h => ?_⟩
  · have ht := tick_ticked h
    refine ⟨?_, ?_, ?_⟩
    · rw [Bool.eq_false_iff, ne_eq, tick_wrap_iff h, hinc]
      exact Nat.not_le.2 (view_phase_lt s)
    · rw [ht.phase, hinc, Nat.mul_zero, Nat.add_zero, Nat.mod_eq_of_lt (view_phase_lt s)]
    · rw [ht.cycleCount, hinc, Nat.mul_zero, Nat.add_zero, Nat.div_eq_of_lt (view_phase_lt s), Nat.add_zero,
        Nat.mod_eq_of_lt (view_cycleCount_lt s)]
  · obtain ⟨t, hrun, hcfg, hedges, ht⟩ := run_ticks h
    exact ⟨t, hrun, hcfg, hedges, ht.phase, ht.cycleCount, ht.inc, ht.freq, ht.fs, ht.gain, ht.ill, ht.tblBuilt⟩

/-- Settles O33: INC is 2^W / n rounded, so n of them miss 2^W by at most n/2, and the ticks add them up modulo 2^W. -/
theorem phaseDriftOverOnePeriod : Obligations.PhaseDriftOverOnePeriod := by
  intro s op n hn hfs _ hop hhead hticks
  obtain ⟨u, hstep, hexec, hcfg, hedges⟩ := step_of_encode rfl hhead
  have hview : u.view = s.view.after s.cfg (.setFreq op) := by
    rw [exec_view hexec, clock_view, pastEdge_view]
    rfl
  have huticks : ∀ j < n, AcceptsTick u.edges[j]? := fun j hj => by
    rw [hedges, List.getElem?_tail]
    exact hticks j hj
  obtain ⟨t, hrun, -, -, ht⟩ := run_ticks huticks
  rw [hcfg, hview] at ht
  have hinc : t.view.inc = _ := ht.inc.trans (after_setFreq_inc_of_period hn hfs hop)
  refine ⟨t, n * t.view.inc - 2 ^ s.cfg.phaseBits, (run_succ hstep).trans hrun, hinc, by ring, ?_, ?_⟩
  · rw [hinc]
    exact period_drift_le _ (by omega)
  · rw [ht.phase, ← ht.inc, ← add_sub_assoc, Int.sub_emod_right]
    norm_cast

/-- Settles O34, clause by clause from the clamp. -/
theorem clampedFrequencyIsBelowNyquist : Obligations.ClampedFrequencyIsBelowNyquist := by
  intro s t op h
  have hlt : op.toInt < 2 ^ 31 := BitVec.toInt_lt
  have hfreq : t.view.freq = clampFreq op.toInt s.view.fs := by rw [exec_view h]; rfl
  rw [hfreq]
  refine ⟨clampFreq_lt_two_pow hlt _, fun h0 => by rw [h0, clampFreq_zero], clampFreq_lt,
    fun _ hneg => clampFreq_of_neg hneg _, clampFreq_of_mem, fun hfs h0 => clampFreq_of_mem h0 (by omega)⟩

/-- Settles O35: rounding half up, and a frequency below Nyquist. -/
theorem incrementIsTheNearestRatio : Obligations.IncrementIsTheNearestRatio := by
  intro s t op hfs h
  have hbounds := half_up_bounds (clampFreq op.toInt s.view.fs * 2 ^ (s.cfg.phaseBits + 1))
    (d := s.view.fs * 2 ^ 16) (Nat.mul_pos (Nat.pos_of_ne_zero hfs) (by norm_num))
  rw [← incOf_eq hfs] at hbounds
  push_cast at hbounds
  rw [exec_view h]
  exact ⟨incOf_le (Nat.one_le_of_lt s.cfg.tableBits_lt) (clampFreq_lt hfs), hbounds⟩

/-- Settles O36: a tick that wraps leaves PHASE below INC, and twice INC is at most 2^W. -/
theorem noTwoConsecutiveWraps : Obligations.NoTwoConsecutiveWraps := by
  rintro s t u op op' hs ht hu ⟨hwrap, hwrap'⟩
  obtain ⟨hregs, -⟩ := (inv_iff s).1 hs
  have hinc : t.view.inc ≤ 2 ^ (t.cfg.phaseBits - 1) := by
    rw [(tick_ticked ht).inc, tick_cfg ht]
    exact hregs.inc_le
  have hhalf : 2 ^ (t.cfg.phaseBits - 1) * 2 = 2 ^ t.cfg.phaseBits :=
    pow_sub_one_mul (Nat.ne_zero_of_lt t.cfg.tableBits_lt) 2
  have hlt := tick_phase_lt_inc ht hwrap
  have hge := (tick_wrap_iff hu).1 hwrap'
  omega

/-- Settles O23: each response form is the register's integer in 32 bits. -/
theorem readCommandsAnswerTheirRegister : Obligations.ReadCommandsAnswerTheirRegister := by
  intro s op
  refine ⟨rfl, rfl, rfl, rfl, rfl, ?_, ?_, ?_, ?_, completes_of_response rfl rfl⟩
  · exact responseValue_eq s.regs.phase ▸ completes_of_response rfl rfl
  · exact responseValue_eq s.regs.inc ▸ completes_of_response rfl rfl
  · exact responseFreq_eq s.regs.freq ▸ completes_of_response rfl rfl
  · exact responseValue_eq s.regs.gain ▸ completes_of_response rfl rfl

/-- Settles O24: EVEN and ALT are the two low bits of CYCLE_COUNT. -/
theorem parityCommandsAnswerEvenAndAlt : Obligations.ParityCommandsAnswerEvenAndAlt := by
  intro s op
  refine ⟨rfl, rfl, ?_, ?_⟩
  · exact responseBit_even s.regs.cycleCount ▸ completes_of_response rfl rfl
  · rw [view_cycleCount, ← altFlag_toNat, ← responseBit_eq]
    exact completes_of_response rfl rfl

end Sys2Proof
end

section
/-!
PROOFS, wave-table (spec/42_wavetable.md). Bias and arithmetic shift are rounding half up (`shiftRight_bias_eq_floor`), and the
lookup is a function of the two nodes and the fraction alone. The last phase of a turn has the last index and the largest
fraction (`indexField_allOnes`, `fractionField_allOnes`), so the lookup there misses the guard sample by less than one half
where the last step of the table is small. Both widened products are bounded by one fact about a product with a bias
(`abs_mul_add_bias_lt`).
-/

namespace Sys2Proof.Machine

/-! ### Bias and shift -/

theorem shiftRight_eq_ediv (a : Int) (k : Nat) : shiftRight a k = a / 2 ^ k := by
  rw [shiftRight, floorDiv, Nat.cast_pow, Nat.cast_ofNat]

/-- Adding half of `2^k` and shifting by `k` rounds the exact quotient half up. -/
theorem shiftRight_bias_eq_floor (a : Int) {k : Nat} (hk : 1 ≤ k) :
    shiftRight (a + 2 ^ (k - 1)) k = ⌊(a : ℚ) / 2 ^ k + 1 / 2⌋ := by
  have hhalf : (2 : ℚ) ^ k / 2 = 2 ^ (k - 1) := by
    rw [div_eq_iff two_ne_zero, pow_sub_one_mul (Nat.one_le_iff_ne_zero.1 hk)]
  rw [shiftRight, floorDiv, ← Rat.floor_intCast_div_natCast]
  congr 1
  push_cast
  rw [← hhalf]
  field_simp

/-- A product with a factor of at most `2^k` leaves room for the bias (R135, R157). -/
theorem abs_mul_add_bias_lt {x : Int} {s k g : Nat} (hk : 1 ≤ k) (hx : |x| < 2 ^ s) (hg : g ≤ 2 ^ k) :
    |x * g| + 2 ^ (k - 1) < 2 ^ (s + k) := by
  have hbias : (2 : Int) ^ (k - 1) < 2 ^ k := pow_lt_pow_right₀ one_lt_two (Nat.sub_lt hk Nat.one_pos)
  have hg' : (g : Int) ≤ 2 ^ k := by exact_mod_cast hg
  calc |x * g| + 2 ^ (k - 1) = |x| * g + 2 ^ (k - 1) := by rw [abs_mul, Nat.abs_cast]
    _ ≤ |x| * 2 ^ k + 2 ^ (k - 1) := by gcongr
    _ < (|x| + 1) * 2 ^ k := by linarith
    _ ≤ 2 ^ s * 2 ^ k := by gcongr; exact hx
    _ = 2 ^ (s + k) := (pow_add _ _ _).symm

/-! ### The nodes and the fraction -/

theorem nodeBefore_bounds (c : Config) (ph : BitVec c.phaseBits) :
    -(c.peak : Int) ≤ nodeBefore c ph ∧ nodeBefore c ph ≤ c.peak :=
  nodeBefore_eq c ph ▸ tableEntry_bounds c _

theorem nodeAfter_bounds (c : Config) (ph : BitVec c.phaseBits) :
    -(c.peak : Int) ≤ nodeAfter c ph ∧ nodeAfter c ph ≤ c.peak :=
  nodeAfter_eq c ph ▸ tableEntry_bounds c _

theorem fractionField_lt (c : Config) (ph : BitVec c.phaseBits) : fractionField c ph < 2 ^ c.fracBits :=
  Nat.mod_lt _ (Nat.two_pow_pos _)

theorem peak_cast_lt (c : Config) : (c.peak : Int) < 2 ^ (c.sampleBits - 1) := by exact_mod_cast c.peak_lt

/-- The step between two nodes fits in S bits beside its sign. -/
theorem abs_node_step_lt (c : Config) (ph : BitVec c.phaseBits) :
    |nodeAfter c ph - nodeBefore c ph| < 2 ^ c.sampleBits := by
  have hdouble : (2 : Int) ^ (c.sampleBits - 1) * 2 = 2 ^ c.sampleBits :=
    pow_sub_one_mul (Nat.ne_zero_of_lt c.two_le_sampleBits) 2
  have hpeak := peak_cast_lt c
  obtain ⟨hb0, hb1⟩ := nodeBefore_bounds c ph
  obtain ⟨ha0, ha1⟩ := nodeAfter_bounds c ph
  rw [abs_lt]
  constructor <;> linarith

theorem abs_lookup_lt (c : Config) (ph : BitVec c.phaseBits) : |lookup c ph| < 2 ^ (c.sampleBits - 1) :=
  (abs_le.2 (lookup_bounds c ph)).trans_lt (peak_cast_lt c)

/-- S + FB + 1 bits are at most 64 (R135). -/
theorem interpolation_width_le (c : Config) : c.sampleBits + c.fracBits + 1 ≤ 64 := by
  have hS := c.sampleBits_le
  have hW := c.phaseBits_le
  have hTB := c.one_le_tableBits
  have hFB := c.fracBits_add_tableBits
  omega

/-! ### The lookup -/

/-- R131 with the step as the exact weighted step, rounded half up. -/
theorem lookup_eq_add_floor (c : Config) (ph : BitVec c.phaseBits) :
    lookup c ph = nodeBefore c ph +
      ⌊(((nodeAfter c ph - nodeBefore c ph) * fractionField c ph : Int) : ℚ) / 2 ^ c.fracBits + 1 / 2⌋ := by
  rw [lookup, interpolate, shiftRight_bias_eq_floor _ c.one_le_fracBits]

/-- At a node the lookup is the node. -/
theorem lookup_of_fraction_zero {c : Config} {ph : BitVec c.phaseBits} (h : fractionField c ph = 0) :
    lookup c ph = nodeBefore c ph := by
  rw [lookup_eq_add_floor, h]
  norm_num

/-- Phases with one index share both nodes, so between them only the fraction counts. -/
theorem lookup_of_index_eq {c : Config} {ph ph' : BitVec c.phaseBits} (h : indexField c ph = indexField c ph') :
    lookup c ph' = interpolate c.fracBits (nodeBefore c ph) (nodeAfter c ph) (fractionField c ph') := by
  rw [lookup, nodeBefore_eq c ph', nodeAfter_eq c ph', ← indexField, ← h, indexField, ← nodeBefore_eq, ← nodeAfter_eq]

theorem lookup_operandPH (c : Config) (op : Word) :
    lookup c (operandPH c op) = lookupValue c (op.toNat % 2 ^ c.phaseBits) := by
  rw [lookup_eq_lookupValue, operandPH, BitVec.toNat_setWidth]

/-! ### The guard -/

/-- The last phase of a turn: the last index, and all fraction bits set. -/
theorem allOnes_toNat (c : Config) :
    (BitVec.allOnes c.phaseBits).toNat = 2 ^ c.fracBits * (c.tableSize - 1) + (2 ^ c.fracBits - 1) := by
  have hN := c.tableSize_pos
  rw [BitVec.toNat_allOnes, ← c.phaseRange, Nat.mul_sub_one]
  have hle := Nat.le_mul_of_pos_right (2 ^ c.fracBits) hN
  have hpos := Nat.two_pow_pos c.fracBits
  omega

theorem indexField_allOnes (c : Config) : indexField c (BitVec.allOnes c.phaseBits) = c.tableSize - 1 := by
  have hpos := Nat.two_pow_pos c.fracBits
  rw [indexField, allOnes_toNat, Nat.mul_add_div hpos, Nat.div_eq_of_lt (Nat.sub_lt hpos Nat.one_pos), Nat.add_zero]

theorem fractionField_allOnes (c : Config) : fractionField c (BitVec.allOnes c.phaseBits) = 2 ^ c.fracBits - 1 := by
  rw [fractionField, allOnes_toNat, Nat.mul_add_mod, Nat.mod_eq_of_lt (Nat.sub_lt (Nat.two_pow_pos _) Nat.one_pos)]

theorem nodeBefore_allOnes (c : Config) :
    nodeBefore c (BitVec.allOnes c.phaseBits) = tableEntry c (c.tableSize - 1) := by
  rw [nodeBefore_eq, ← indexField, indexField_allOnes]

theorem nodeAfter_allOnes (c : Config) : nodeAfter c (BitVec.allOnes c.phaseBits) = tableEntry c c.tableSize := by
  rw [nodeAfter_eq, ← indexField, indexField_allOnes, Nat.sub_add_cancel c.tableSize_pos]

/-- The last step of the table, from its last entry to the guard sample (R134). -/
def lastStep (c : Config) : Int := tableEntry c c.tableSize - tableEntry c (c.tableSize - 1)

/-- The last phase is one unit of the fraction short of the guard. -/
theorem lookup_allOnes (c : Config) :
    lookup c (BitVec.allOnes c.phaseBits) =
      tableEntry c (c.tableSize - 1) + ⌊(lastStep c : ℚ) - lastStep c / 2 ^ c.fracBits + 1 / 2⌋ := by
  rw [lookup_eq_add_floor, nodeBefore_allOnes, nodeAfter_allOnes, fractionField_allOnes, ← lastStep]
  congr 3
  push_cast [Nat.one_le_two_pow]
  field_simp

/-- A step smaller than half of the fraction's range loses less than one half to the last unit. -/
theorem floor_sub_div_add_half {d : Int} {k : Nat} (hk : 1 ≤ k) (h : |d| < 2 ^ (k - 1)) :
    ⌊(d : ℚ) - d / 2 ^ k + 1 / 2⌋ = d := by
  have hpos : (0 : ℚ) < 2 ^ k := by positivity
  have hhalf : (2 : ℚ) ^ (k - 1) * 2 = 2 ^ k := pow_sub_one_mul (Nat.one_le_iff_ne_zero.1 hk) 2
  have hd : |(d : ℚ)| < 2 ^ (k - 1) := by exact_mod_cast h
  have hsmall : |(d : ℚ) / 2 ^ k| < 1 / 2 := by
    rw [abs_div, abs_of_pos hpos, div_lt_iff₀ hpos]
    linarith
  obtain ⟨hlo, hhi⟩ := abs_lt.1 hsmall
  rw [Int.floor_eq_iff]
  constructor <;> linarith

theorem lookup_allOnes_of_small_step {c : Config} (h : |lastStep c| < 2 ^ (c.fracBits - 1)) :
    lookup c (BitVec.allOnes c.phaseBits) = tableEntry c c.tableSize := by
  rw [lookup_allOnes, floor_sub_div_add_half c.one_le_fracBits h, lastStep, add_sub_cancel]

theorem lookup_zero (c : Config) : lookup c 0 = tableEntry c 0 := by
  have hzero : (0 : BitVec c.phaseBits).toNat = 0 := BitVec.toNat_zero
  rw [lookup_of_fraction_zero (by rw [fractionField, hzero, Nat.zero_mod]), nodeBefore_eq, hzero, Nat.zero_div]

theorem lastStep_ref : lastStep Config.ref = 804 := by decide

end Sys2Proof.Machine

namespace Sys2Proof

open Machine

/-- Settles O21: a ROM read is the table entry, and bias and shift round half up. -/
theorem lookupInterpolates : Obligations.LookupInterpolates := by
  intro s op
  dsimp only
  rw [← Config.fracBits]
  refine ⟨rfl, ?_, ?_⟩
  · rw [← shiftRight_eq_ediv, shiftRight_bias_eq_floor _ s.cfg.one_le_fracBits]
    push_cast
    rfl
  · rw [← shiftRight_eq_ediv, shiftRight]
    refine completes_of_response rfl ?_
    rw [respond_inFlight, lookup_operandPH]
    rfl

/-- Settles O42, from the bounds and the monotonicity of the interpolation. -/
theorem lookupNeverOvershoots : Obligations.LookupNeverOvershoots := by
  intro c ph ph'
  obtain ⟨hmin, hmax⟩ := lookup_between c ph
  obtain ⟨hlo, hhi⟩ := lookup_bounds c ph
  refine ⟨hmin, hmax, hlo, hhi, fun hidx hfr => ?_⟩
  rw [lookup_of_index_eq hidx]
  exact interpolate_mono hfr

/-- Settles O43: the last phase is one unit short of the guard sample, which is entry 0; in REF the last step is small. -/
theorem lookupIsContinuousAcrossTheGuard : Obligations.LookupIsContinuousAcrossTheGuard := by
  refine ⟨fun c => ⟨lookup_allOnes c, fun hsmall => ?_⟩, lastStep_ref, ?_, ?_⟩
  · exact ⟨floor_sub_div_add_half c.one_le_fracBits hsmall, lookup_allOnes_of_small_step hsmall, tableEntry_guard c,
      (lookup_zero c).symm⟩
  · have hsmall : |lastStep Config.ref| < 2 ^ (Config.ref.fracBits - 1) := by rw [lastStep_ref]; decide
    exact (lookup_allOnes_of_small_step hsmall).trans ((tableEntry_guard _).trans (tableEntry_zero _))
  · exact (lookup_zero _).trans (tableEntry_zero _)

/-- Settles O45: node step and sample are below 2^S and 2^(S-1), fraction and gain at most 2^FB and 2^GF. -/
theorem widenedProductsFit : Obligations.WidenedProductsFit := by
  intro c ph g
  refine ⟨abs_mul_add_bias_lt c.one_le_fracBits (abs_node_step_lt c ph) (fractionField_lt c ph).le,
    interpolation_width_le c, fun hg => ?_⟩
  have hfit := abs_mul_add_bias_lt c.one_le_gainFracBits (abs_lookup_lt c ph) hg
  rw [← Nat.sub_add_comm (Nat.one_le_of_lt c.two_le_sampleBits)] at hfit
  have hbias : (0 : Int) < 2 ^ (c.gainFracBits - 1) := by positivity
  have hlo := neg_abs_le (lookup c ph * g)
  have hhi := le_abs_self (lookup c ph * g)
  constructor <;> linarith

/-- Settles O44: fifteen closed lookups, each evaluated. -/
theorem referenceLookups : Obligations.ReferenceLookups := by
  unfold Obligations.ReferenceLookups
  decide

end Sys2Proof
end

section
/-!
PROOFS, oscillator (spec/43_oscillator.md). CONSTRUCT, SET_GAIN and PROCESS act on the registers as `View.after` says. The gain
multiply and the gain quantization are both a bias and a shift, so `shiftRight_bias_eq_floor` makes them exact quotients
rounded half up; a gain of `1 / d` then divides the sample by `d` (`gainMul_of_gain_mul_eq`), from which the gain laws follow.
-/

namespace Sys2Proof.Machine

/-! ### The gain multiply (R152) -/

theorem gainMul_eq_ediv (gf : Nat) (v : Int) (g : Nat) : gainMul gf v g = (v * g + 2 ^ (gf - 1)) / 2 ^ gf :=
  shiftRight_eq_ediv _ _

theorem gainMul_eq_floor {gf : Nat} (hgf : 1 ≤ gf) (v : Int) (g : Nat) :
    gainMul gf v g = ⌊(v * g : ℚ) / 2 ^ gf + 1 / 2⌋ := by
  rw [gainMul, shiftRight_bias_eq_floor _ hgf, Int.cast_mul, Int.cast_natCast]

theorem floor_intCast_add_half (n : Int) : ⌊(n : ℚ) + 1 / 2⌋ = n := by
  rw [← round_eq, round_intCast]

theorem gainMul_zero {gf : Nat} (hgf : 1 ≤ gf) (v : Int) : gainMul gf v 0 = 0 := by
  rw [gainMul_eq_floor hgf]
  norm_num

/-- A gain of `1 / d` divides the sample by `d`, rounded half up. -/
theorem gainMul_of_gain_mul_eq {gf g d : Nat} (hgf : 1 ≤ gf) (h : g * d = 2 ^ gf) (v : Int) :
    gainMul gf v g = ⌊(v : ℚ) / d + 1 / 2⌋ := by
  have hg : g ≠ 0 := left_ne_zero_of_mul (h ▸ (Nat.two_pow_pos gf).ne')
  have hcast : (2 : ℚ) ^ gf = d * g := by exact_mod_cast h.symm.trans (Nat.mul_comm g d)
  rw [gainMul_eq_floor hgf, hcast, mul_div_mul_right _ _ (Nat.cast_ne_zero.2 hg)]

/-! ### The stored gain (R151) -/

theorem quantizeGain_eq (gf : Nat) (g : Int) :
    quantizeGain gf g =
      let gc := if g < 0 then 0 else if 65536 < g then 65536 else g.toNat
      if gf = 16 then gc else (gc + 2 ^ (15 - gf)) / 2 ^ (16 - gf) := by
  rw [quantizeGain, clamp_toNat]

theorem clamp_eq_max_min {x lo hi : Int} (h : lo ≤ hi) : clamp x lo hi = max lo (min x hi) := by
  unfold clamp
  split_ifs <;> omega

/-- The stored gain is the clamped operand shifted from 16 fraction bits to GF, rounded half up. -/
theorem quantizeGain_eq_floor {gf : Nat} (hgf : gf ≤ 16) (g : Int) :
    (quantizeGain gf g : Int) = ⌊((max 0 (min g 65536) : Int) : ℚ) / 2 ^ 16 * 2 ^ gf + 1 / 2⌋ := by
  have hrange : (0 : Int) ≤ 2 ^ 16 := by norm_num
  have hgc : ((clamp g 0 (2 ^ 16)).toNat : Int) = max 0 (min g 65536) := by
    rw [Int.toNat_of_nonneg (clamp_mem hrange).1, clamp_eq_max_min hrange]
    rfl
  rw [← hgc, quantizeGain]
  generalize (clamp g 0 (2 ^ 16)).toNat = gc
  split_ifs with hfull
  · rw [hfull, div_mul_cancel₀ _ (by norm_num), floor_intCast_add_half]
  · have hbits : 1 ≤ 16 - gf := by omega
    have hsplit : (2 : ℚ) ^ 16 = 2 ^ (16 - gf) * 2 ^ gf := by rw [← pow_add, Nat.sub_add_cancel hgf]
    rw [hsplit, div_mul_eq_mul_div, mul_div_mul_right _ _ (by positivity), ← shiftRight_bias_eq_floor _ hbits,
      shiftRight_eq_ediv, Nat.sub_right_comm]
    norm_cast

/-! ### PROCESS (R153) -/

/-- With a gain of at most 1.0 the sample fits in LAST. -/
theorem after_process {c : Config} {v : View} (hg : v.gain ≤ 2 ^ c.gainFracBits) (op : Word) :
    v.after c (.process op) = { v.tick c with last := v.sample c } := by
  obtain ⟨hlo, hhi⟩ := sample_bounds hg
  rw [View.after, toInt_ofInt_of_peak c hlo hhi]

/-- PROCESS responds with the sample, whatever the gain. -/
theorem exec_process_inFlight {s t : State} {op : Word} (h : exec (.process op) s = .next t) :
    t.inFlight = s.inFlight ++ [⟨s.cfg.rspLatency, BitVec.ofInt 32 (s.view.sample s.cfg)⟩] := by
  cases h
  rw [respond_inFlight, lookup_eq_lookupValue, tickStep_phase]
  rfl

theorem exec_process_last {s t : State} {op : Word} (h : exec (.process op) s = .next t)
    (hg : s.view.gain ≤ 2 ^ s.cfg.gainFracBits) : t.view.last = s.view.sample s.cfg := by
  rw [exec_view h, after_process hg]

theorem exec_process_last_of_gain_mul_eq {s t : State} {op : Word} {d : Nat} (h : exec (.process op) s = .next t)
    (hd : 0 < d) (hg : s.view.gain * d = 2 ^ s.cfg.gainFracBits) :
    t.view.last = ⌊(lookupValue s.cfg (s.view.tick s.cfg).phase : ℚ) / d + 1 / 2⌋ := by
  rw [exec_process_last h (hg ▸ Nat.le_mul_of_pos_right _ hd), View.sample,
    gainMul_of_gain_mul_eq s.cfg.one_le_gainFracBits hg]

end Sys2Proof.Machine

namespace Sys2Proof

open Machine

/-- Settles O18: the rules' case distinction is the model's clamp. -/
theorem setGainStoresQuantizedGain : Obligations.SetGainStoresQuantizedGain := by
  intro s op
  have heq := quantizeGain_eq s.cfg.gainFracBits op.toInt
  dsimp only at heq ⊢
  rw [← heq]
  exact ⟨rfl, quantizeGain_le s.cfg.one_le_gainFracBits s.cfg.gainFracBits_le _, completes_of_response rfl rfl⟩

/-- Settles O22: the sample fits in LAST, and the response carries the same sample. -/
theorem processProducesOneSample : Obligations.ProcessProducesOneSample := by
  intro s op hg
  dsimp only
  rw [← gainMul_eq_ediv]
  have hresponse := exec_process_inFlight (s := s) (op := op) rfl
  exact ⟨rfl, after_process hg op ▸ completes_of_response rfl hresponse⟩

/-- Settles O46: GAIN 0 keeps the rounding bias alone, and the others divide the lookup by 1, 4 and 2. -/
theorem gainLaws : Obligations.GainLaws := by
  intro s t op h
  refine ⟨fun hg => ?_, fun hg => ?_, exec_process_last_of_gain_mul_eq h (by norm_num),
    exec_process_last_of_gain_mul_eq h (by norm_num)⟩
  · rw [exec_process_last h (hg ▸ Nat.zero_le _), View.sample, hg, gainMul_zero s.cfg.one_le_gainFracBits]
  · rw [exec_process_last_of_gain_mul_eq (d := 1) h Nat.one_pos (by rw [hg, Nat.mul_one]), Nat.cast_one, div_one,
      floor_intCast_add_half]
    rfl

/-- Settles O47, clause by clause from the laws of the gain multiply. -/
theorem gainMultiplyRoundsHalfUp : Obligations.GainMultiplyRoundsHalfUp := fun gf v g hgf =>
  ⟨gainMul_eq_ediv gf v g, gainMul_eq_floor hgf v g, fun hg => abs_le.2 (gainMul_bounded hgf v hg)⟩

/-- Settles O48: bias and shift of the quantization round half up, and at GF = 16 nothing is rounded. -/
theorem gainQuantizationRoundsHalfUp : Obligations.GainQuantizationRoundsHalfUp := by
  intro s t op h
  rw [exec_view h]
  exact quantizeGain_eq_floor s.cfg.gainFracBits_le _

/-- Settles O16: CONSTRUCT leaves the registers of reset but for FS, ILL and TBL_BUILT. -/
theorem constructStartsAVoice : Obligations.ConstructStartsAVoice := fun _ _ => ⟨rfl, completes_of_response rfl rfl⟩

end Sys2Proof
end

section
/-!
PROOFS, control (spec/44_control.md). The STATUS word is a bitwise or of fields at growing positions, each above all bits of
the fields before it: there `or` is `+` (`ofNat_or_shiftLeft`), which gives the word as a sum. The four reserved rows share
one meaning (`exec_of_isReserved`), so their statement is one fact about every reserved command. No arm of `exec` faults or
refuses, so commands and steps always answer.
-/

namespace Sys2Proof.Machine

/-! ### The STATUS word (R181) -/

/-- A field put above all bits of `a` adds to it. -/
theorem ofNat_or_shiftLeft {w a k : Nat} (b : Nat) (ha : a < 2 ^ k) :
    BitVec.ofNat w a ||| BitVec.ofNat w b <<< k = BitVec.ofNat w (a + 2 ^ k * b) := by
  have hshift : BitVec.ofNat w b <<< k = BitVec.ofNat w (2 ^ k * b) := by
    apply BitVec.eq_of_toNat_eq
    simp [Nat.shiftLeft_eq, Nat.mul_comm]
  rw [hshift, ← BitVec.ofNat_or, Nat.or_comm, ← Nat.two_pow_add_eq_or_of_lt ha, Nat.add_comm]

theorem setWidth_ofBool (w : Nat) (b : Bool) : (BitVec.ofBool b).setWidth w = BitVec.ofNat w b.toNat := by
  rw [← BitVec.ofNat_toNat, BitVec.toNat_ofBool]

theorem evenFlag_toNat (n : Byte) : (evenFlag n).toNat = if n.toNat % 2 = 0 then 1 else 0 :=
  apply_ite Bool.toNat (n.toNat % 2 = 0) true false

theorem statusWord_eq (n : Byte) (wrap ill : Bool) :
    statusWord n wrap ill = BitVec.ofNat 32
      ((evenFlag n).toNat + 2 * (altFlag n).toNat + 4 * wrap.toNat + 256 * n.toNat + 65536 * ill.toNat) := by
  have heven := Bool.toNat_lt (evenFlag n)
  have halt := Bool.toNat_lt (altFlag n)
  have hwrap := Bool.toNat_lt wrap
  have hcount : n.toNat < 256 := n.isLt
  simp only [statusWord, setWidth_ofBool]
  rw [← BitVec.ofNat_toNat 32 n, ofNat_or_shiftLeft _ (by omega), ofNat_or_shiftLeft _ (by omega),
    ofNat_or_shiftLeft _ (by omega), ofNat_or_shiftLeft _ (by omega)]
  rfl

/-! ### The reserved commands (R182) -/

theorem completes_of_isReserved {i : Instr} (h : i.isReserved = true) (s : State) :
    Completes i s { s.view with ill := true } 0 :=
  ⟨_, exec_of_isReserved h s, raise_view s, rfl, rfl, rfl⟩

theorem causeOf_of_isReserved {i : Instr} (h : i.isReserved = true) : causeOf i = .illegalCommand :=
  if_pos h

/-! ### Every command and every step answers (R183, R201) -/

/-- The case split over the commands is `exec_tblBuilt`'s, which holds of every state. -/
theorem exists_exec (i : Instr) (s : State) : ∃ t, exec i s = .next t := by
  obtain ⟨t, -, h, -⟩ := exec_tblBuilt i s s.tblBuilt
  exact ⟨t, h⟩

theorem exists_step (s : State) : ∃ t, step s = .next t := by
  obtain ⟨t, -, h, -⟩ := step_tblBuilt s s.tblBuilt
  exact ⟨t, h⟩

end Sys2Proof.Machine

namespace Sys2Proof

open Machine

/-- Settles O25: the fields of the STATUS word do not overlap, so they add up. -/
theorem statusWordLayout : Obligations.StatusWordLayout := by
  intro s op
  refine ⟨rfl, ?_⟩
  rw [view_cycleCount, ← evenFlag_toNat, ← altFlag_toNat, view_wrap, view_ill, ← statusWord_eq]
  exact completes_of_response rfl rfl

/-- Settles O26: the opcode makes the command reserved, and all reserved commands share one meaning. -/
theorem reservedCommandSetsOnlyIll : Obligations.ReservedCommandSetsOnlyIll := by
  refine ⟨fun s w hw => ?_, fun s _ _ => ?_⟩
  · have hres := (decode_isReserved w).2 hw
    exact ⟨hres, congrArg Cause.code (causeOf_of_isReserved hres), completes_of_isReserved hres s⟩
  · exact ⟨completes_of_isReserved rfl s, completes_of_isReserved rfl s, completes_of_isReserved rfl s,
      completes_of_isReserved rfl s⟩

/-- Settles O5: every command answers, and an answer owes one response more. -/
theorem everyStepAnswersAndEveryCommandResponds : Obligations.EveryStepAnswersAndEveryCommandResponds := by
  refine ⟨exists_step, fun i s => ?_⟩
  obtain ⟨t, h⟩ := exists_exec i s
  obtain ⟨r, hflight⟩ := exec_inFlight h
  exact ⟨t, r, h, hflight⟩

/-- Settles O15: NOP writes no register, and its response is 0. -/
theorem nopChangesNothing : Obligations.NopChangesNothing := fun _ _ => ⟨rfl, completes_of_response rfl rfl⟩

end Sys2Proof
end

section
/-!
PROOFS, exceptions (spec/60_exceptions.md). A voice's clock edge is `stepVoice_eq` of the block's step, which always answers.
The one thing a voice sees that another can write is TBL_BUILT, and what a voice owns after a step does not depend on that
bit (`step_tblBuilt`).
-/

namespace Sys2Proof.Machine

@[simp] theorem voices_set_self {pc : PlatformConfig} (p : Platform pc) (k : Fin pc.numVoices) (v : Voice pc.voice) :
    (p.voices.set k v)[k] = v :=
  Vector.getElem_set_self _

/-- The block's own step on what a voice owns: whatever the shared bit, the voice ends up owning the same. -/
theorem step_asState_toVoice {c : Config} (v : Voice c) (b b' : Bool) :
    ∃ (t t' : State) (h : t.cfg = c) (h' : t'.cfg = c), step (v.asState b) = .next t ∧ step (v.asState b') = .next t' ∧
      t'.toVoice h' = t.toVoice h := by
  obtain ⟨t, b'', ht, ht'⟩ := step_tblBuilt (v.asState b) b'
  exact ⟨t, { t with tblBuilt := b'' }, step_cfg ht, step_cfg ht, ht, ht', toVoice_tblBuilt t b'' _⟩

/-- R213: an edge of voice `k` is the block's step, and the other voices own what they owned. -/
theorem stepVoice_frame {pc : PlatformConfig} (p : Platform pc) (k : Fin pc.numVoices) :
    ∃ (q : Platform pc) (t : State), p.stepVoice k = .next q ∧ step (p.voice k) = .next t ∧ q.voice k = t ∧
      q.tblBuilt = t.tblBuilt ∧ ∀ j, j ≠ k → q.voices[j] = p.voices[j] := by
  obtain ⟨t, ht⟩ := exists_step (p.voice k)
  have hself := (voice_set_self p k (t.toVoice (voice_step_cfg ht)) t.tblBuilt).trans (asState_toVoice t _)
  exact ⟨_, t, stepVoice_eq ht, ht, hself, rfl, fun _ hj => voices_set_of_ne p hj _⟩

/-- R213: what a voice owns after its edge comes from what it owned before, wherever it stands. -/
theorem stepVoice_voice_congr {c : Config} {n n' : Nat} {hn : 1 ≤ n} {hn' : 1 ≤ n'} {p q : Platform ⟨c, n, hn⟩}
    {p' : Platform ⟨c, n', hn'⟩} {k : Fin n} {k' : Fin n'} (hv : p.voices[k] = p'.voices[k'])
    (h : p.stepVoice k = .next q) :
    ∃ q' : Platform ⟨c, n', hn'⟩, p'.stepVoice k' = .next q' ∧ q'.voices[k'] = q.voices[k] := by
  obtain ⟨u, hu, rfl⟩ := stepVoice_cases h
  obtain ⟨t, t', hcfg, hcfg', ht, ht', hown⟩ := step_asState_toVoice p.voices[k] p.tblBuilt p'.tblBuilt
  cases hu.symm.trans ht
  rw [hv] at ht'
  exact ⟨_, stepVoice_eq ht',
    (voices_set_self p' k' (t'.toVoice hcfg')).trans (hown.trans (voices_set_self p k (u.toVoice hcfg)).symm)⟩

end Sys2Proof.Machine

namespace Sys2Proof

open Machine

/-- Settles O31: the frame of a clock edge, and that what a voice owns after it comes from that voice alone. -/
theorem voicesAreIsolated : Obligations.VoicesAreIsolated :=
  ⟨fun _ p k => stepVoice_frame p k, fun _ _ _ _ _ _ _ _ _ _ hv h => stepVoice_voice_congr hv h⟩

end Sys2Proof
end

section
/-!
PROOFS, reset (spec/70_reset_and_hazards.md). Reset is `View.reset` whatever came before (`resetWith_view`,
`resetEvent_view`), and CONSTRUCT leaves those registers but for FS, ILL and TBL_BUILT (`constructStartsAVoice`).
-/

namespace Sys2Proof.Machine

/-- No response is offered while none is owed: `rsp_valid = 0` (R232). -/
theorem offeredResponse_eq_none_of_nil {s : State} (h : s.inFlight = []) : s.offeredResponse = none := by
  rw [State.offeredResponse, h]

/-- ALT of a cycle count of 0 (R232). -/
theorem altFlag_zero : altFlag 0 = false := by decide

end Sys2Proof.Machine

namespace Sys2Proof

open Machine

/-- Settles O1: reset leaves `View.reset` and owes nothing; the clause about CONSTRUCT is O16 at operand 0. -/
theorem resetLeavesEveryRegisterZero : Obligations.ResetLeavesEveryRegisterZero := by
  refine ⟨fun c es => ⟨resetWith_view c es, rfl, altFlag_zero, ?_,
    offeredResponse_eq_none_of_nil (resetWith_inFlight c es)⟩, fun s => (constructStartsAVoice s 0).2⟩
  rw [sampleOut_toInt, resetWith_view, View.reset]

/-- Settles O2: with `rst = 1` the step is the reset event, whatever the port offers. -/
theorem resetEdgeResetsFromEveryState : Obligations.ResetEdgeResetsFromEveryState := fun s hrst =>
  ⟨s.pastEdge.resetEvent, step_of_rst hrst, resetEvent_view _, resetEvent_inFlight _,
    offeredResponse_eq_none_of_nil (resetEvent_inFlight _), rfl, rfl⟩

/-- Settles O49: the reset registers lie in their ranges and no response is owed. -/
theorem resetMeetsTheInvariant : Obligations.ResetMeetsTheInvariant := resetWith_inv

end Sys2Proof
end

section
/-!
PROOFS, the response port over time and the implementation parameters (spec/30_encoding.md R72; spec/00_scope.md section 3).
An edge without reset brings every response that is not delivered at it one cycle nearer and accepts commands only behind it
(`step_owed`), so over a run the cycles count down (`run_owed`). The responses are owed in order, so one owed for a single
cycle is the first, which is the one on the port (`State.Inv.offeredResponse_of_due_one`).
-/

namespace Sys2Proof

/-! ### Configurations -/

theorem Params.toConfig?_isSome_iff (p : Params) : p.toConfig?.isSome = true ↔ p.Legal := by
  simp [Params.toConfig?]

theorem Params.toParams_of_toConfig? {p : Params} {c : Config} (h : p.toConfig? = some c) : c.toParams = p := by
  unfold Params.toConfig? at h
  split at h
  · cases h; rfl
  · cases h

namespace Machine

/-! ### One clock edge -/

theorem step_edges {s t : State} (h : step s = .next t) : t.edges = s.edges.tail := by
  obtain ⟨-, rfl⟩ | ⟨-, -, hexec⟩ | ⟨-, -, rfl⟩ := step_cases h
  · rfl
  · exact exec_edges hexec
  · rfl

/-- No reset over `k + 1` edges: none at the next edge and none over the `k` after it. When the host's edges run out, the
idle edge does not reset either. -/
theorem nextEdge_and_rest_rst {s : State} {k : Nat} (h : ∀ e ∈ s.edges.take (k + 1), e.rst = false) :
    s.nextEdge.rst = false ∧ ∀ e ∈ s.edges.tail.take k, e.rst = false := by
  cases hes : s.edges with
  | nil => exact ⟨by rw [nextEdge_nil hes, idle_rst], by simp⟩
  | cons e es =>
    rw [hes, List.take_succ_cons] at h
    rw [nextEdge_cons hes]
    exact List.forall_mem_cons.1 h

/-- R72: a response owed for more than one cycle outlives an edge without reset, one cycle nearer. -/
theorem step_owed {s t : State} {q : Response} (hr : s.nextEdge.rst = false) (h : step s = .next t)
    (hq : q ∈ s.inFlight) (hdue : 1 < q.due) : (⟨q.due - 1, q.word⟩ : Response) ∈ t.inFlight := by
  have hclock := mem_clockResponses hq hdue
  cases ha : s.nextEdge.accepts with
  | true =>
    obtain ⟨r, hflight⟩ := step_accepts_inFlight hr ha h
    rw [hflight]
    exact List.mem_append_left _ hclock
  | false =>
    rw [step_of_idle hr ha] at h
    cases h
    exact hclock

/-! ### Runs without reset -/

/-- Over `k` edges without reset the invariant stays, and a response owed for longer comes `k` cycles nearer. -/
theorem run_owed {k : Nat} {s t : State} {q : Response} (hs : s.Inv) (hq : q ∈ s.inFlight) (hk : k < q.due)
    (hrst : ∀ e ∈ s.edges.take k, e.rst = false) (hrun : core.run k s = .next t) :
    t.Inv ∧ (⟨q.due - k, q.word⟩ : Response) ∈ t.inFlight := by
  induction k generalizing s q with
  | zero =>
    cases hrun
    exact ⟨hs, hq⟩
  | succ k ih =>
    obtain ⟨u, hstep⟩ := exists_step s
    rw [run_succ hstep] at hrun
    obtain ⟨hnext, hrest⟩ := nextEdge_and_rest_rst hrst
    rw [← step_edges hstep] at hrest
    have howed := step_owed hnext hstep hq (Nat.lt_of_le_of_lt (Nat.le_add_left 1 k) hk)
    have hlast := ih (step_inv hs hstep) howed (Nat.lt_sub_of_add_lt hk) hrest hrun
    rwa [Nat.sub_sub, Nat.add_comm 1 k] at hlast

/-- R72: no other response is due before one that is owed for a single cycle, so that one is on the port. -/
theorem State.Inv.offeredResponse_of_due_one {s : State} {w : Word} (hs : s.Inv)
    (hw : (⟨1, w⟩ : Response) ∈ s.inFlight) : s.offeredResponse = some w := by
  have hordered := hs.responses_ordered
  have hdue := hs.responses_due
  unfold State.offeredResponse
  cases hflight : s.inFlight with
  | nil => simp [hflight] at hw
  | cons r rs =>
    rw [hflight] at hw hordered hdue
    rcases List.mem_cons.1 hw with rfl | hlater
    · rfl
    · have hsooner : r.due < 1 := List.rel_of_pairwise_cons hordered hlater
      have hpos : 1 ≤ r.due := (hdue r List.mem_cons_self).1
      exact absurd hsooner (Nat.not_lt.2 hpos)

end Machine

open Machine

/-- Settles O6: the cycles of an owed response count down, and the last of them finds it first in the order. -/
theorem owedResponseIsOfferedOnTime : Obligations.OwedResponseIsOfferedOnTime := by
  intro s t q k hs hq hk hrst hrun
  obtain ⟨ht, howed⟩ := run_owed hs hq hk hrst hrun
  refine ⟨howed, fun hlast => ht.offeredResponse_of_due_one ?_⟩
  rwa [← hlast, Nat.add_sub_cancel_left] at howed

/-- Settles O52: the check on raw parameters is `Params.Legal`, and it keeps them. -/
theorem onlyLegalParametersConfigure : Obligations.OnlyLegalParametersConfigure := fun p =>
  ⟨p.toConfig?_isSome_iff, fun _ => Params.toParams_of_toConfig?⟩

end Sys2Proof
end
